-- ==== Sys2Proof/Word.lean ====
section
/-! DEFINITION. The word types of the M32R-FPU (spec/10_state.md R20, R21; 20_memory.md R83): what the spec
treats as bits is a bit vector, a register number is an index. -/

namespace Sys2Proof

/-- A 32-bit word: a general or control register, the program counter, an address being computed. -/
abbrev Word := BitVec 32

/-- A 16-bit halfword: one 16-bit instruction, or half of a 32-bit one (R110). -/
abbrev Half := BitVec 16

/-- One byte of memory (R83). -/
abbrev Byte := BitVec 8

/-- The contents of the 56-bit accumulator (R49). -/
abbrev Acc := BitVec 56

/-- A general register number, 0 to 15 (R13, R21). -/
abbrev Reg := Fin 16

/-- A control register number as the instruction's 4-bit field holds it (R29); only 0 to 3, 6 and 7 name a register. -/
abbrev CtrlNum := Fin 16

end Sys2Proof
end

