-- ==== Sys2Proof/Config.lean ====
section
/-! DEFINITION. The free values: what the spec leaves undefined while the machine goes on
(93_implementation_defined.md, treatment "any value"). Each is an opaque constant without a body, applied to the
number of free values drawn before it (`State.draws`, entry 19), so no proof can learn what it is. -/

namespace Sys2Proof

/-- The accumulator after MUL (10_state.md R51; 42_arith_logic.md R226; U4, D22; entry 15). -/
opaque Config.accAfterMul : Nat → Acc

/-- The quotient DIV delivers for 0x80000000 by 0xFFFFFFFF, from the draw, the dividend and the divisor
(42_arith_logic.md R224(g); U5, D21; entry 16). -/
opaque Config.divOverflow : Nat → Word → Word → Word

/-- The remainder REM delivers for 0x80000000 by 0xFFFFFFFF (42_arith_logic.md R224(g); U5, D21; entry 16). -/
opaque Config.remOverflow : Nat → Word → Word → Word

/-- The bits BSM, BIE, BC after RTE, in that order from the most significant (44_eit_instructions.md R282(a); U2;
entry 17). -/
opaque Config.backupAfterRte : Nat → BitVec 3

/-- BPC after RTE, before its bit 0 is forced to 0 (44_eit_instructions.md R282(a); U2; entry 17). -/
opaque Config.bpcAfterRte : Nat → Word

/-- The bits FCMP and FCMPE leave open in their result word; the operation brings them into the set the spec fixes
(47_float_instructions.md R371; U9, D28; entry 18). -/
opaque Config.fcmpBits : Nat → Word

end Sys2Proof
end

