-- ==== Sys2Proof/Machine/Platform.lean ====
section
/-! DEFINITION. What the platform supplies and what the model names where the spec gives no value: the EIT entry
addresses (60_exceptions.md R425, D3), the value of an unlisted byte of memory, the value of a register whose reset
value is undefined. -/

namespace Sys2Proof.Machine

/-- The events that are taken by the entry sequence (60_exceptions.md R401, R425). -/
inductive EitKind where
  /-- address exception (R410) -/
  | ae
  /-- floating-point exception (R411) -/
  | fpe
  /-- external interrupt (R414) -/
  | ei
  /-- trap number n (R413) -/
  | trap (n : Fin 16)
  deriving DecidableEq, Repr

/-- `EIT_VECTOR`, the platform's entry addresses (R425, D3). An entry is word-aligned, so only its upper 30 bits
are held. -/
structure EitVectors where
  ae : BitVec 30
  fpe : BitVec 30
  ei : BitVec 30
  trap : Vector (BitVec 30) 16
  deriving DecidableEq, Repr

/-- The entry addresses R425 names as the M32R family's: AE 0x30, FPE 0x90, EI 0x80, TRAP n 0x40 + 4n. PRESUMED,
entry 6: unsafe where a claim rests on them; `State.reset` uses them, no rule does. -/
def familyVectors : EitVectors where
  ae := 0x0C#30
  fpe := 0x24#30
  ei := 0x20#30
  trap := #v[0x10#30, 0x11#30, 0x12#30, 0x13#30, 0x14#30, 0x15#30, 0x16#30, 0x17#30,
             0x18#30, 0x19#30, 0x1A#30, 0x1B#30, 0x1C#30, 0x1D#30, 0x1E#30, 0x1F#30]

/-- What a byte of memory that nothing has written reads as. DESIGN CHOICE, entry 1, unsafe: the spec gives memory no
contents at reset (93 U23). -/
def unlistedByte : Byte := 0

/-- The value at reset of every 32-bit register whose reset value the spec calls undefined (10_state.md R65, 93 U1).
DESIGN CHOICE, entry 4, unsafe. -/
def undefinedAtReset : Word := 0

/-- The accumulator at reset, undefined in the spec (10_state.md R52). DESIGN CHOICE, entry 4, unsafe. -/
def accAtReset : Acc := 0

/-- PSW at reset (10_state.md R33): SM, IE and C are 0 by the spec; BSM, BIE and BC are undefined there and 0 here.
DESIGN CHOICE for those three, entry 4, unsafe. -/
def pswAtReset : Word := 0

end Sys2Proof.Machine
end

