-- ==== Sys2Proof/Machine/State.lean ====
section
/-! DEFINITION. The state of the machine as plain data (10_state.md R20, R65), the reasons a step can stop, and the
state right after reset. -/

namespace Sys2Proof.Machine

/-- Memory as the bytes that differ from an unlisted one, by strictly rising address (20_memory.md R80). -/
abbrev Memory := List Host.Cell

/-- Everything the spec gives the machine. R15, CBR and FPSR.FS have no storage of their own: they are views
(10_state.md R22, R35, R43). -/
structure State where
  /-- R0 to R14 (10_state.md R21) -/
  gprs : Vector Word 15
  /-- SPI, CR2: R15 while PSW.SM = 0 (R22, R37) -/
  spi : Word
  /-- SPU, CR3: R15 while PSW.SM = 1 (R22, R37) -/
  spu : Word
  /-- the program counter (R25) -/
  pc : Word
  /-- PSW, CR0 (R30) -/
  psw : Word
  /-- BPC, CR6 (R38) -/
  bpc : Word
  /-- FPSR, CR7, the stored bits (R40); bit 31 is computed on reading (R43) -/
  fpsr : Word
  /-- the accumulator (R49) -/
  acc : Acc
  /-- the LOCK bit (R62) -/
  lockBit : Bool
  /-- memory (20_memory.md R80) -/
  mem : Memory
  /-- `EIT_VECTOR`, supplied by the platform; no instruction writes it (60_exceptions.md R425) -/
  vectors : EitVectors
  /-- `INT_REQUEST`, the environment's input: its values at the coming instruction boundaries, the next one first;
  none left means no request (60_exceptions.md R430, entry 7) -/
  intRequests : List Bool
  /-- the model's own: how many free values have been drawn (entry 19) -/
  draws : Nat
  /-- the model's own: RTE left BSM, BIE, BC undefined and nothing has written them since (93 U2, entry 17) -/
  bpswOpen : Bool
  /-- the model's own: RTE left BPC undefined and nothing has written it since (93 U2, entry 17) -/
  bpcOpen : Bool
  deriving DecidableEq, Repr

/-- Why the machine stops. -/
inductive Fault where
  /-- Raised by the step when the bytes at the program counter are none of the 100 instructions (30_encoding.md R123,
  R124), or a lower halfword with its top bit set that is not the parallel NOP (R113). Nothing changes
  (60_exceptions.md R412). Safe: the spec makes it a fault that no rule leaves. -/
  | reservedInstruction
  deriving DecidableEq, Repr

/-- Why an instruction is refused. -/
inductive Refusal where
  /-- Raised by exec for an instruction that has no meaning yet. Safe. -/
  | notModelled (mnemonic : String)
  /-- Raised by MVFC and MVTC for a control register number other than 0 to 3, 6, 7, which the manual does not define
  and the spec has the model refuse (41_transfer.md R184, R185; 93 U3). Safe. -/
  | undefinedControlRegister
  /-- Raised by LD Rdest,@Rsrc+ and by ST Rsrc1,@+Rsrc2 and ST Rsrc1,@-Rsrc2 when both fields name one register,
  which the spec has the model refuse (40_load_store.md R173; 93 U10, D20). Safe. -/
  | overlappingRegisters
  /-- Raised by RTE where an earlier RTE left BSM, BIE, BC or BPC undefined and neither an EIT entry nor an MVTC has
  written them since: the spec has the model refuse it (44_eit_instructions.md R282; 93 U2). Safe. -/
  | undefinedReturnState
  deriving DecidableEq, Repr

/-- What executing an instruction answers. -/
abbrev Result := Host.Outcome State Fault Refusal

/-- The machine when reset is released (10_state.md R65, 70_reset_and_hazards.md R450): PC = 0, PSW with SM, IE and C
clear, FPSR = 0x00000100, the LOCK bit 0. The registers the spec calls undefined hold the values of entry 4. -/
def State.reset : State where
  gprs := Vector.replicate 15 undefinedAtReset
  spi := undefinedAtReset
  spu := undefinedAtReset
  pc := 0x00000000#32
  psw := pswAtReset
  bpc := undefinedAtReset
  fpsr := 0x00000100#32
  acc := accAtReset
  lockBit := false
  mem := []
  vectors := familyVectors
  intRequests := []
  draws := 0
  bpswOpen := false
  bpcOpen := false

end Sys2Proof.Machine
end

