-- ==== Sys2Proof/Machine/Flags.lean ====
section
/-! DEFINITION. Every computation of the condition bit (10_state.md R28), by exact integers. -/

namespace Sys2Proof.Machine

/-- Signed less-than (42_arith_logic.md R201). -/
def signedLess (a b : Word) : Bool := decide (a.toInt < b.toInt)

/-- Unsigned less-than (42_arith_logic.md R203). -/
def unsignedLess (a b : Word) : Bool := decide (a.toNat < b.toNat)

/-- Signed overflow of a + b: the exact sum is not the value of the 32-bit result (42_arith_logic.md R208). -/
def addOverflows (a b : Word) : Bool := decide (a.toInt + b.toInt ≠ (a + b).toInt)

/-- Signed overflow of a - b (42_arith_logic.md R213). -/
def subOverflows (a b : Word) : Bool := decide (a.toInt - b.toInt ≠ (a - b).toInt)

/-- The exact unsigned sum with carry in (42_arith_logic.md R210). -/
def sumWithCarry (a b : Word) (c : Bool) : Nat := a.toNat + b.toNat + c.toNat

/-- Carry out of a + b + C: the sum is no 32-bit unsigned integer (42_arith_logic.md R210). -/
def carryOut (a b : Word) (c : Bool) : Bool := decide (2 ^ 32 ≤ sumWithCarry a b c)

/-- The exact unsigned difference with borrow in, which may be negative (42_arith_logic.md R214). -/
def differenceWithBorrow (a b : Word) (c : Bool) : Int := (a.toNat : Int) - b.toNat - c.toNat

/-- Borrow of a - b - C: the difference is negative (42_arith_logic.md R214). -/
def borrowOut (a b : Word) (c : Bool) : Bool := decide (differenceWithBorrow a b c < 0)

/-- The bit of a byte (or of the low byte of a word) that `bitpos` names: bitpos counts from the most significant bit
of the byte (48_bitops.md R390). -/
def bitIndex (bitpos : Fin 8) : Nat := 7 - bitpos.val

/-- The bit BTST copies to C (48_bitops.md R395). -/
def testedBit (bitpos : Fin 8) (v : Word) : Bool := v.getLsbD (bitIndex bitpos)

end Sys2Proof.Machine
end

