-- ==== Sys2Proof/Syntax.lean ====
section
/-! DEFINITION. The instructions of the M32R-FPU as syntax: one constructor for each of the 117 encoded forms of
spec/opcode_table.json (30_encoding.md R128), operands in the order the assembler writes them (R126). -/

namespace Sys2Proof

/-- An instruction form. Immediates and displacements hold the bits of their field (R116); `bitpos`, counts of
trap numbers and register numbers are indices. -/
inductive Instr where
  -- load and store (40_load_store.md)
  /-- LD Rdest,@Rsrc (R151) -/
  | ld (dest src : Reg)
  /-- LD Rdest,@Rsrc+ (R152) -/
  | ldPostInc (dest src : Reg)
  /-- LD Rdest,@(disp16,Rsrc) (R153) -/
  | ldDisp (dest : Reg) (disp16 : BitVec 16) (src : Reg)
  /-- LDB Rdest,@Rsrc (R154) -/
  | ldb (dest src : Reg)
  /-- LDB Rdest,@(disp16,Rsrc) (R155) -/
  | ldbDisp (dest : Reg) (disp16 : BitVec 16) (src : Reg)
  /-- LDUB Rdest,@Rsrc (R156) -/
  | ldub (dest src : Reg)
  /-- LDUB Rdest,@(disp16,Rsrc) (R157) -/
  | ldubDisp (dest : Reg) (disp16 : BitVec 16) (src : Reg)
  /-- LDH Rdest,@Rsrc (R158) -/
  | ldh (dest src : Reg)
  /-- LDH Rdest,@(disp16,Rsrc) (R159) -/
  | ldhDisp (dest : Reg) (disp16 : BitVec 16) (src : Reg)
  /-- LDUH Rdest,@Rsrc (R161) -/
  | lduh (dest src : Reg)
  /-- LDUH Rdest,@(disp16,Rsrc) (R162) -/
  | lduhDisp (dest : Reg) (disp16 : BitVec 16) (src : Reg)
  /-- LOCK Rdest,@Rsrc (R160) -/
  | lock (dest src : Reg)
  /-- ST Rsrc1,@Rsrc2 (R163) -/
  | st (src1 src2 : Reg)
  /-- ST Rsrc1,@+Rsrc2 (R164) -/
  | stPreInc (src1 src2 : Reg)
  /-- ST Rsrc1,@-Rsrc2 (R165) -/
  | stPreDec (src1 src2 : Reg)
  /-- ST Rsrc1,@(disp16,Rsrc2) (R166) -/
  | stDisp (src1 : Reg) (disp16 : BitVec 16) (src2 : Reg)
  /-- STB Rsrc1,@Rsrc2 (R167) -/
  | stb (src1 src2 : Reg)
  /-- STB Rsrc1,@(disp16,Rsrc2) (R168) -/
  | stbDisp (src1 : Reg) (disp16 : BitVec 16) (src2 : Reg)
  /-- STH Rsrc1,@Rsrc2 (R169) -/
  | sth (src1 src2 : Reg)
  /-- STH Rsrc1,@Rsrc2+ (R170) -/
  | sthPostInc (src1 src2 : Reg)
  /-- STH Rsrc1,@(disp16,Rsrc2) (R172) -/
  | sthDisp (src1 : Reg) (disp16 : BitVec 16) (src2 : Reg)
  /-- UNLOCK Rsrc1,@Rsrc2 (R171) -/
  | unlock (src1 src2 : Reg)
  -- transfer (41_transfer.md)
  /-- LD24 Rdest,#imm24 (R181) -/
  | ld24 (dest : Reg) (imm24 : BitVec 24)
  /-- LDI Rdest,#imm8 (R182) -/
  | ldi8 (dest : Reg) (imm8 : BitVec 8)
  /-- LDI Rdest,#imm16 (R183) -/
  | ldi16 (dest : Reg) (imm16 : BitVec 16)
  /-- SETH Rdest,#imm16 (R187) -/
  | seth (dest : Reg) (imm16 : BitVec 16)
  /-- MV Rdest,Rsrc (R186) -/
  | mv (dest src : Reg)
  /-- MVFC Rdest,CRsrc (R184) -/
  | mvfc (dest : Reg) (crsrc : CtrlNum)
  /-- MVTC Rsrc,CRdest (R185) -/
  | mvtc (src : Reg) (crdest : CtrlNum)
  -- compare (42_arith_logic.md)
  /-- CMP Rsrc1,Rsrc2 (R201) -/
  | cmp (src1 src2 : Reg)
  /-- CMPI Rsrc,#imm16 (R202) -/
  | cmpi (src : Reg) (imm16 : BitVec 16)
  /-- CMPU Rsrc1,Rsrc2 (R203) -/
  | cmpu (src1 src2 : Reg)
  /-- CMPUI Rsrc,#imm16 (R204) -/
  | cmpui (src : Reg) (imm16 : BitVec 16)
  -- arithmetic
  /-- ADD Rdest,Rsrc (R205) -/
  | add (dest src : Reg)
  /-- ADD3 Rdest,Rsrc,#imm16 (R206) -/
  | add3 (dest src : Reg) (imm16 : BitVec 16)
  /-- ADDI Rdest,#imm8 (R207) -/
  | addi (dest : Reg) (imm8 : BitVec 8)
  /-- ADDV Rdest,Rsrc (R208) -/
  | addv (dest src : Reg)
  /-- ADDV3 Rdest,Rsrc,#imm16 (R209) -/
  | addv3 (dest src : Reg) (imm16 : BitVec 16)
  /-- ADDX Rdest,Rsrc (R210) -/
  | addx (dest src : Reg)
  /-- NEG Rdest,Rsrc (R211) -/
  | neg (dest src : Reg)
  /-- SUB Rdest,Rsrc (R212) -/
  | sub (dest src : Reg)
  /-- SUBV Rdest,Rsrc (R213) -/
  | subv (dest src : Reg)
  /-- SUBX Rdest,Rsrc (R214) -/
  | subx (dest src : Reg)
  -- logic
  /-- AND Rdest,Rsrc (R215) -/
  | and (dest src : Reg)
  /-- AND3 Rdest,Rsrc,#imm16 (R216) -/
  | and3 (dest src : Reg) (imm16 : BitVec 16)
  /-- NOT Rdest,Rsrc (R217) -/
  | not (dest src : Reg)
  /-- OR Rdest,Rsrc (R218) -/
  | or (dest src : Reg)
  /-- OR3 Rdest,Rsrc,#imm16 (R219) -/
  | or3 (dest src : Reg) (imm16 : BitVec 16)
  /-- XOR Rdest,Rsrc (R220) -/
  | xor (dest src : Reg)
  /-- XOR3 Rdest,Rsrc,#imm16 (R221) -/
  | xor3 (dest src : Reg) (imm16 : BitVec 16)
  -- multiply and divide
  /-- MUL Rdest,Rsrc (R226) -/
  | mul (dest src : Reg)
  /-- DIV Rdest,Rsrc (R222) -/
  | div (dest src : Reg)
  /-- DIVU Rdest,Rsrc (R223) -/
  | divu (dest src : Reg)
  /-- REM Rdest,Rsrc (R227) -/
  | rem (dest src : Reg)
  /-- REMU Rdest,Rsrc (R228) -/
  | remu (dest src : Reg)
  -- shift
  /-- SLL Rdest,Rsrc (R230) -/
  | sll (dest src : Reg)
  /-- SLL3 Rdest,Rsrc,#imm16 (R231) -/
  | sll3 (dest src : Reg) (imm16 : BitVec 16)
  /-- SLLI Rdest,#imm5 (R232) -/
  | slli (dest : Reg) (imm5 : BitVec 5)
  /-- SRA Rdest,Rsrc (R233) -/
  | sra (dest src : Reg)
  /-- SRA3 Rdest,Rsrc,#imm16 (R234) -/
  | sra3 (dest src : Reg) (imm16 : BitVec 16)
  /-- SRAI Rdest,#imm5 (R235) -/
  | srai (dest : Reg) (imm5 : BitVec 5)
  /-- SRL Rdest,Rsrc (R236) -/
  | srl (dest src : Reg)
  /-- SRL3 Rdest,Rsrc,#imm16 (R237) -/
  | srl3 (dest src : Reg) (imm16 : BitVec 16)
  /-- SRLI Rdest,#imm5 (R238) -/
  | srli (dest : Reg) (imm5 : BitVec 5)
  -- branch (43_branch.md)
  /-- BC pcdisp8 (R252) -/
  | bc8 (pcdisp8 : BitVec 8)
  /-- BC pcdisp24 (R253) -/
  | bc24 (pcdisp24 : BitVec 24)
  /-- BNC pcdisp8 (R262) -/
  | bnc8 (pcdisp8 : BitVec 8)
  /-- BNC pcdisp24 (R263) -/
  | bnc24 (pcdisp24 : BitVec 24)
  /-- BEQ Rsrc1,Rsrc2,pcdisp16 (R254) -/
  | beq (src1 src2 : Reg) (pcdisp16 : BitVec 16)
  /-- BNE Rsrc1,Rsrc2,pcdisp16 (R264) -/
  | bne (src1 src2 : Reg) (pcdisp16 : BitVec 16)
  /-- BEQZ Rsrc,pcdisp16 (R255) -/
  | beqz (src : Reg) (pcdisp16 : BitVec 16)
  /-- BNEZ Rsrc,pcdisp16 (R265) -/
  | bnez (src : Reg) (pcdisp16 : BitVec 16)
  /-- BGEZ Rsrc,pcdisp16 (R258) -/
  | bgez (src : Reg) (pcdisp16 : BitVec 16)
  /-- BGTZ Rsrc,pcdisp16 (R259) -/
  | bgtz (src : Reg) (pcdisp16 : BitVec 16)
  /-- BLEZ Rsrc,pcdisp16 (R260) -/
  | blez (src : Reg) (pcdisp16 : BitVec 16)
  /-- BLTZ Rsrc,pcdisp16 (R261) -/
  | bltz (src : Reg) (pcdisp16 : BitVec 16)
  /-- BRA pcdisp8 (R268) -/
  | bra8 (pcdisp8 : BitVec 8)
  /-- BRA pcdisp24 (R269) -/
  | bra24 (pcdisp24 : BitVec 24)
  /-- BL pcdisp8 (R256) -/
  | bl8 (pcdisp8 : BitVec 8)
  /-- BL pcdisp24 (R257) -/
  | bl24 (pcdisp24 : BitVec 24)
  /-- JL Rsrc (R266) -/
  | jl (src : Reg)
  /-- JMP Rsrc (R267) -/
  | jmp (src : Reg)
  /-- NOP (R270), also the parallel NOP of R113 -/
  | nop
  -- EIT (44_eit_instructions.md)
  /-- TRAP #imm4 (R281) -/
  | trap (imm4 : Fin 16)
  /-- RTE (R282) -/
  | rte
  -- DSP functions (45_dsp.md)
  /-- MACHI Rsrc1,Rsrc2 (R291) -/
  | machi (src1 src2 : Reg)
  /-- MACLO Rsrc1,Rsrc2 (R292) -/
  | maclo (src1 src2 : Reg)
  /-- MACWHI Rsrc1,Rsrc2 (R293) -/
  | macwhi (src1 src2 : Reg)
  /-- MACWLO Rsrc1,Rsrc2 (R294) -/
  | macwlo (src1 src2 : Reg)
  /-- MULHI Rsrc1,Rsrc2 (R295) -/
  | mulhi (src1 src2 : Reg)
  /-- MULLO Rsrc1,Rsrc2 (R296) -/
  | mullo (src1 src2 : Reg)
  /-- MULWHI Rsrc1,Rsrc2 (R297) -/
  | mulwhi (src1 src2 : Reg)
  /-- MULWLO Rsrc1,Rsrc2 (R298) -/
  | mulwlo (src1 src2 : Reg)
  /-- MVFACHI Rdest (R299) -/
  | mvfachi (dest : Reg)
  /-- MVFACLO Rdest (R300) -/
  | mvfaclo (dest : Reg)
  /-- MVFACMI Rdest (R301) -/
  | mvfacmi (dest : Reg)
  /-- MVTACHI Rsrc (R302) -/
  | mvtachi (src : Reg)
  /-- MVTACLO Rsrc (R303) -/
  | mvtaclo (src : Reg)
  /-- RAC (R304) -/
  | rac
  /-- RACH (R305) -/
  | rach
  -- floating point (47_float_instructions.md)
  /-- FADD Rdest,Rsrc1,Rsrc2 (R361) -/
  | fadd (dest src1 src2 : Reg)
  /-- FSUB Rdest,Rsrc1,Rsrc2 (R362) -/
  | fsub (dest src1 src2 : Reg)
  /-- FMUL Rdest,Rsrc1,Rsrc2 (R363) -/
  | fmul (dest src1 src2 : Reg)
  /-- FDIV Rdest,Rsrc1,Rsrc2 (R364) -/
  | fdiv (dest src1 src2 : Reg)
  /-- FMADD Rdest,Rsrc1,Rsrc2 (R365) -/
  | fmadd (dest src1 src2 : Reg)
  /-- FMSUB Rdest,Rsrc1,Rsrc2 (R366) -/
  | fmsub (dest src1 src2 : Reg)
  /-- ITOF Rdest,Rsrc (R367) -/
  | itof (dest src : Reg)
  /-- UTOF Rdest,Rsrc (R368) -/
  | utof (dest src : Reg)
  /-- FTOI Rdest,Rsrc (R369) -/
  | ftoi (dest src : Reg)
  /-- FTOS Rdest,Rsrc (R370) -/
  | ftos (dest src : Reg)
  /-- FCMP Rdest,Rsrc1,Rsrc2 (R371) -/
  | fcmp (dest src1 src2 : Reg)
  /-- FCMPE Rdest,Rsrc1,Rsrc2 (R372) -/
  | fcmpe (dest src1 src2 : Reg)
  -- bit operations (48_bitops.md)
  /-- BSET #bitpos,@(disp16,Rsrc) (R391) -/
  | bset (bitpos : Fin 8) (disp16 : BitVec 16) (src : Reg)
  /-- BCLR #bitpos,@(disp16,Rsrc) (R392) -/
  | bclr (bitpos : Fin 8) (disp16 : BitVec 16) (src : Reg)
  /-- BTST #bitpos,Rsrc (R395) -/
  | btst (bitpos : Fin 8) (src : Reg)
  /-- SETPSW #imm8 (R393) -/
  | setpsw (imm8 : BitVec 8)
  /-- CLRPSW #imm8 (R394) -/
  | clrpsw (imm8 : BitVec 8)
  deriving DecidableEq, Repr

end Sys2Proof
end

