-- ==== Sys2Proof/WellFormed.lean ====
section
/-! DEFINITION. The checks an instruction passes beyond the widths of its fields: the encodings the spec matches
but leaves outside what it defines (10_state.md R29; 40_load_store.md R173). -/

namespace Sys2Proof

/-- The control register numbers that name a register: 0 PSW, 1 CBR, 2 SPI, 3 SPU, 6 BPC, 7 FPSR (R29). -/
def CtrlNum.defined (n : CtrlNum) : Bool :=
  n == 0 || n == 1 || n == 2 || n == 3 || n == 6 || n == 7

/-- The instruction is one the spec gives a meaning: MVFC and MVTC name a control register that exists (R184,
R185), and the forms that update their base register do not use it as the data register too (R173). -/
def Instr.wellFormed : Instr → Bool
  | .mvfc _ cr => CtrlNum.defined cr
  | .mvtc _ cr => CtrlNum.defined cr
  | .ldPostInc dest src => dest != src
  | .stPreInc src1 src2 => src1 != src2
  | .stPreDec src1 src2 => src1 != src2
  | .ld _ _ | .ldDisp _ _ _ | .ldb _ _ | .ldbDisp _ _ _ | .ldub _ _ | .ldubDisp _ _ _ | .ldh _ _
  | .ldhDisp _ _ _ | .lduh _ _ | .lduhDisp _ _ _ | .lock _ _ | .st _ _ | .stDisp _ _ _ | .stb _ _
  | .stbDisp _ _ _ | .sth _ _ | .sthPostInc _ _ | .sthDisp _ _ _ | .unlock _ _ | .ld24 _ _ | .ldi8 _ _
  | .ldi16 _ _ | .seth _ _ | .mv _ _ | .cmp _ _ | .cmpi _ _ | .cmpu _ _ | .cmpui _ _ | .add _ _ | .add3 _ _ _
  | .addi _ _ | .addv _ _ | .addv3 _ _ _ | .addx _ _ | .neg _ _ | .sub _ _ | .subv _ _ | .subx _ _ | .and _ _
  | .and3 _ _ _ | .not _ _ | .or _ _ | .or3 _ _ _ | .xor _ _ | .xor3 _ _ _ | .mul _ _ | .div _ _ | .divu _ _
  | .rem _ _ | .remu _ _ | .sll _ _ | .sll3 _ _ _ | .slli _ _ | .sra _ _ | .sra3 _ _ _ | .srai _ _ | .srl _ _
  | .srl3 _ _ _ | .srli _ _ | .bc8 _ | .bc24 _ | .bnc8 _ | .bnc24 _ | .beq _ _ _ | .bne _ _ _ | .beqz _ _
  | .bnez _ _ | .bgez _ _ | .bgtz _ _ | .blez _ _ | .bltz _ _ | .bra8 _ | .bra24 _ | .bl8 _ | .bl24 _ | .jl _
  | .jmp _ | .nop | .trap _ | .rte | .machi _ _ | .maclo _ _ | .macwhi _ _ | .macwlo _ _ | .mulhi _ _
  | .mullo _ _ | .mulwhi _ _ | .mulwlo _ _ | .mvfachi _ | .mvfaclo _ | .mvfacmi _ | .mvtachi _ | .mvtaclo _
  | .rac | .rach | .fadd _ _ _ | .fsub _ _ _ | .fmul _ _ _ | .fdiv _ _ _ | .fmadd _ _ _ | .fmsub _ _ _
  | .itof _ _ | .utof _ _ | .ftoi _ _ | .ftos _ _ | .fcmp _ _ _ | .fcmpe _ _ _ | .bset _ _ _ | .bclr _ _ _
  | .btst _ _ | .setpsw _ | .clrpsw _ => true

end Sys2Proof
end

