-- ==== Sys2Proof/Decode.lean ====
section
/-! DEFINITION. The decoder and the encoder, both written from the formats and the opcode map of
30_encoding.md (R110 to R124). A halfword is read as its four 4-bit columns b0-b3, b4-b7, b8-b11, b12-b15 (R114);
every printed constant is part of the match (R124). -/

namespace Sys2Proof

/-- Which halfword of a word-aligned word an instruction starts in (R112): the length rule and the meaning of
the top bit differ between the two (R111, R113). -/
inductive Slot where
  /-- pc[1:0] = 00 -/
  | upper
  /-- pc[1:0] = 10 -/
  | lower
  deriving DecidableEq, Repr

/-- Why bytes are no instruction. -/
inductive DecodeError where
  /-- no row of the opcode table matches (R123, R124) -/
  | undefinedEncoding
  /-- a lower halfword with its top bit set that is not the parallel NOP 0xF000 (R113) -/
  | parallelNotNop
  /-- fewer bytes were given than the instruction has -/
  | truncated
  deriving DecidableEq, Repr

/-- The 4-bit column of a halfword whose least significant bit is bit `k`. -/
def column (h : Half) (k : Nat) : BitVec 4 := h.extractLsb' k 4

/-- The halfword with the given columns, b0-b3 first. -/
def halfOf (c0 c1 c2 c3 : BitVec 4) : Half := c0 ++ c1 ++ c2 ++ c3

/-- Row 0000 of the opcode map (R118, R120). -/
def decodeRow0 (r1 op2 r2 : BitVec 4) : Option Instr :=
  match op2 with
  | 0x0#4 => some (.subv r1.toFin r2.toFin)
  | 0x1#4 => some (.subx r1.toFin r2.toFin)
  | 0x2#4 => some (.sub r1.toFin r2.toFin)
  | 0x3#4 => some (.neg r1.toFin r2.toFin)
  | 0x4#4 => some (.cmp r1.toFin r2.toFin)
  | 0x5#4 => some (.cmpu r1.toFin r2.toFin)
  | 0x8#4 => some (.addv r1.toFin r2.toFin)
  | 0x9#4 => some (.addx r1.toFin r2.toFin)
  | 0xA#4 => some (.add r1.toFin r2.toFin)
  | 0xB#4 => some (.not r1.toFin r2.toFin)
  | 0xC#4 => some (.and r1.toFin r2.toFin)
  | 0xD#4 => some (.xor r1.toFin r2.toFin)
  | 0xE#4 => some (.or r1.toFin r2.toFin)
  | 0xF#4 => if r1.getLsbD 3 then none else some (.btst (r1.extractLsb' 0 3).toFin r2.toFin)
  | _ => none

/-- Row 0001 of the opcode map (R118, R120). -/
def decodeRow1 (r1 op2 r2 : BitVec 4) : Option Instr :=
  match op2 with
  | 0x0#4 => some (.srl r1.toFin r2.toFin)
  | 0x2#4 => some (.sra r1.toFin r2.toFin)
  | 0x4#4 => some (.sll r1.toFin r2.toFin)
  | 0x6#4 => some (.mul r1.toFin r2.toFin)
  | 0x8#4 => some (.mv r1.toFin r2.toFin)
  | 0x9#4 => some (.mvfc r1.toFin r2.toFin)
  | 0xA#4 => some (.mvtc r2.toFin r1.toFin)
  | 0xC#4 =>
    match r1 with
    | 0xE#4 => some (.jl r2.toFin)
    | 0xF#4 => some (.jmp r2.toFin)
    | _ => none
  | 0xD#4 => if r1 = 0x0#4 ∧ r2 = 0x6#4 then some .rte else none
  | 0xF#4 => if r1 = 0x0#4 then some (.trap r2.toFin) else none
  | _ => none

/-- Row 0010 of the opcode map: loads and stores without displacement (R118). -/
def decodeRow2 (r1 op2 r2 : BitVec 4) : Option Instr :=
  match op2 with
  | 0x0#4 => some (.stb r1.toFin r2.toFin)
  | 0x2#4 => some (.sth r1.toFin r2.toFin)
  | 0x3#4 => some (.sthPostInc r1.toFin r2.toFin)
  | 0x4#4 => some (.st r1.toFin r2.toFin)
  | 0x5#4 => some (.unlock r1.toFin r2.toFin)
  | 0x6#4 => some (.stPreInc r1.toFin r2.toFin)
  | 0x7#4 => some (.stPreDec r1.toFin r2.toFin)
  | 0x8#4 => some (.ldb r1.toFin r2.toFin)
  | 0x9#4 => some (.ldub r1.toFin r2.toFin)
  | 0xA#4 => some (.ldh r1.toFin r2.toFin)
  | 0xB#4 => some (.lduh r1.toFin r2.toFin)
  | 0xC#4 => some (.ld r1.toFin r2.toFin)
  | 0xD#4 => some (.lock r1.toFin r2.toFin)
  | 0xE#4 => some (.ldPostInc r1.toFin r2.toFin)
  | _ => none

/-- Row 0011 of the opcode map: the accumulator multiplications (R118). -/
def decodeRow3 (r1 op2 r2 : BitVec 4) : Option Instr :=
  match op2 with
  | 0x0#4 => some (.mulhi r1.toFin r2.toFin)
  | 0x1#4 => some (.mullo r1.toFin r2.toFin)
  | 0x2#4 => some (.mulwhi r1.toFin r2.toFin)
  | 0x3#4 => some (.mulwlo r1.toFin r2.toFin)
  | 0x4#4 => some (.machi r1.toFin r2.toFin)
  | 0x5#4 => some (.maclo r1.toFin r2.toFin)
  | 0x6#4 => some (.macwhi r1.toFin r2.toFin)
  | 0x7#4 => some (.macwlo r1.toFin r2.toFin)
  | _ => none

/-- Row 0101 of the opcode map: the immediate shifts take b8-b10 as opcode and b11-b15 as amount; the
accumulator moves and roundings lie beside them (R118, R120, R229). -/
def decodeRow5 (r1 op2 r2 : BitVec 4) : Option Instr :=
  match op2.extractLsb' 1 3 with
  | 0#3 => some (.srli r1.toFin (op2.extractLsb' 0 1 ++ r2))
  | 1#3 => some (.srai r1.toFin (op2.extractLsb' 0 1 ++ r2))
  | 2#3 => some (.slli r1.toFin (op2.extractLsb' 0 1 ++ r2))
  | _ =>
    match op2, r2 with
    | 0x7#4, 0x0#4 => some (.mvtachi r1.toFin)
    | 0x7#4, 0x1#4 => some (.mvtaclo r1.toFin)
    | 0x8#4, 0x0#4 => if r1 = 0x0#4 then some .rach else none
    | 0x9#4, 0x0#4 => if r1 = 0x0#4 then some .rac else none
    | 0xF#4, 0x0#4 => some (.mvfachi r1.toFin)
    | 0xF#4, 0x1#4 => some (.mvfaclo r1.toFin)
    | 0xF#4, 0x2#4 => some (.mvfacmi r1.toFin)
    | _, _ => none

/-- Row 0111 of the opcode map, selected by b4-b7 (R119). -/
def decodeRow7 (r1 op2 r2 : BitVec 4) : Option Instr :=
  match r1 with
  | 0x0#4 => if op2 = 0x0#4 ∧ r2 = 0x0#4 then some .nop else none
  | 0x1#4 => some (.setpsw (op2 ++ r2))
  | 0x2#4 => some (.clrpsw (op2 ++ r2))
  | 0xC#4 => some (.bc8 (op2 ++ r2))
  | 0xD#4 => some (.bnc8 (op2 ++ r2))
  | 0xE#4 => some (.bl8 (op2 ++ r2))
  | 0xF#4 => some (.bra8 (op2 ++ r2))
  | _ => none

/-- A 16-bit instruction by its four columns (R118, op1 = 0000 to 0111). -/
def decodeShort (op1 r1 op2 r2 : BitVec 4) : Option Instr :=
  match op1 with
  | 0x0#4 => decodeRow0 r1 op2 r2
  | 0x1#4 => decodeRow1 r1 op2 r2
  | 0x2#4 => decodeRow2 r1 op2 r2
  | 0x3#4 => decodeRow3 r1 op2 r2
  | 0x4#4 => some (.addi r1.toFin (op2 ++ r2))
  | 0x5#4 => decodeRow5 r1 op2 r2
  | 0x6#4 => some (.ldi8 r1.toFin (op2 ++ r2))
  | 0x7#4 => decodeRow7 r1 op2 r2
  | _ => none

/-- Row 1000 of the opcode map; `lo` is b16-b31 (R118, R120). -/
def decodeRow8 (r1 op2 r2 : BitVec 4) (lo : Half) : Option Instr :=
  match op2 with
  | 0x4#4 => if r1 = 0x0#4 then some (.cmpi r2.toFin lo) else none
  | 0x5#4 => if r1 = 0x0#4 then some (.cmpui r2.toFin lo) else none
  | 0x8#4 => some (.addv3 r1.toFin r2.toFin lo)
  | 0xA#4 => some (.add3 r1.toFin r2.toFin lo)
  | 0xC#4 => some (.and3 r1.toFin r2.toFin lo)
  | 0xD#4 => some (.xor3 r1.toFin r2.toFin lo)
  | 0xE#4 => some (.or3 r1.toFin r2.toFin lo)
  | _ => none

/-- Row 1001 of the opcode map: the divisions' lower halfword is 0x0000 (R118, R120, R224). -/
def decodeRow9 (r1 op2 r2 : BitVec 4) (lo : Half) : Option Instr :=
  match op2 with
  | 0x0#4 => if lo = 0 then some (.div r1.toFin r2.toFin) else none
  | 0x1#4 => if lo = 0 then some (.divu r1.toFin r2.toFin) else none
  | 0x2#4 => if lo = 0 then some (.rem r1.toFin r2.toFin) else none
  | 0x3#4 => if lo = 0 then some (.remu r1.toFin r2.toFin) else none
  | 0x8#4 => some (.srl3 r1.toFin r2.toFin lo)
  | 0xA#4 => some (.sra3 r1.toFin r2.toFin lo)
  | 0xC#4 => some (.sll3 r1.toFin r2.toFin lo)
  | 0xF#4 => if r2 = 0x0#4 then some (.ldi16 r1.toFin lo) else none
  | _ => none

/-- Row 1010 of the opcode map: loads and stores with displacement, BSET and BCLR (R118, R120). -/
def decodeRowA (r1 op2 r2 : BitVec 4) (lo : Half) : Option Instr :=
  match op2 with
  | 0x0#4 => some (.stbDisp r1.toFin lo r2.toFin)
  | 0x2#4 => some (.sthDisp r1.toFin lo r2.toFin)
  | 0x4#4 => some (.stDisp r1.toFin lo r2.toFin)
  | 0x6#4 => if r1.getLsbD 3 then none else some (.bset (r1.extractLsb' 0 3).toFin lo r2.toFin)
  | 0x7#4 => if r1.getLsbD 3 then none else some (.bclr (r1.extractLsb' 0 3).toFin lo r2.toFin)
  | 0x8#4 => some (.ldbDisp r1.toFin lo r2.toFin)
  | 0x9#4 => some (.ldubDisp r1.toFin lo r2.toFin)
  | 0xA#4 => some (.ldhDisp r1.toFin lo r2.toFin)
  | 0xB#4 => some (.lduhDisp r1.toFin lo r2.toFin)
  | 0xC#4 => some (.ldDisp r1.toFin lo r2.toFin)
  | _ => none

/-- Row 1011 of the opcode map: compare and branch (R118, R120). -/
def decodeRowB (r1 op2 r2 : BitVec 4) (lo : Half) : Option Instr :=
  match op2 with
  | 0x0#4 => some (.beq r1.toFin r2.toFin lo)
  | 0x1#4 => some (.bne r1.toFin r2.toFin lo)
  | 0x8#4 => if r1 = 0x0#4 then some (.beqz r2.toFin lo) else none
  | 0x9#4 => if r1 = 0x0#4 then some (.bnez r2.toFin lo) else none
  | 0xA#4 => if r1 = 0x0#4 then some (.bltz r2.toFin lo) else none
  | 0xB#4 => if r1 = 0x0#4 then some (.bgez r2.toFin lo) else none
  | 0xC#4 => if r1 = 0x0#4 then some (.blez r2.toFin lo) else none
  | 0xD#4 => if r1 = 0x0#4 then some (.bgtz r2.toFin lo) else none
  | _ => none

/-- The FPU group by op3 (b16-b19) and op4 (b24-b27); b28-b31 are 0000 in every form and b12-b15 are 0000 in the
conversions (R121, R360). -/
def decodeFpu (r1 r2 op3 dest op4 last : BitVec 4) : Option Instr :=
  if last = 0x0#4 then
    match op3, op4 with
    | 0x0#4, 0x0#4 => some (.fadd dest.toFin r1.toFin r2.toFin)
    | 0x0#4, 0x4#4 => some (.fsub dest.toFin r1.toFin r2.toFin)
    | 0x0#4, 0xC#4 => some (.fcmp dest.toFin r1.toFin r2.toFin)
    | 0x0#4, 0xD#4 => some (.fcmpe dest.toFin r1.toFin r2.toFin)
    | 0x1#4, 0x0#4 => some (.fmul dest.toFin r1.toFin r2.toFin)
    | 0x2#4, 0x0#4 => some (.fdiv dest.toFin r1.toFin r2.toFin)
    | 0x3#4, 0x0#4 => some (.fmadd dest.toFin r1.toFin r2.toFin)
    | 0x3#4, 0x4#4 => some (.fmsub dest.toFin r1.toFin r2.toFin)
    | 0x4#4, 0x0#4 => if r2 = 0x0#4 then some (.itof dest.toFin r1.toFin) else none
    | 0x4#4, 0x4#4 => if r2 = 0x0#4 then some (.utof dest.toFin r1.toFin) else none
    | 0x4#4, 0x8#4 => if r2 = 0x0#4 then some (.ftoi dest.toFin r1.toFin) else none
    | 0x4#4, 0xC#4 => if r2 = 0x0#4 then some (.ftos dest.toFin r1.toFin) else none
    | _, _ => none
  else none

/-- Row 1101 of the opcode map: the FPU group and SETH (R118, R120, R121). -/
def decodeRowD (r1 op2 r2 : BitVec 4) (lo : Half) : Option Instr :=
  match op2 with
  | 0x0#4 => decodeFpu r1 r2 (column lo 12) (column lo 8) (column lo 4) (column lo 0)
  | 0xC#4 => if r2 = 0x0#4 then some (.seth r1.toFin lo) else none
  | _ => none

/-- Row 1111 of the opcode map: the branches with a 24-bit displacement, selected by b4-b7 (R119). -/
def decodeRowF (r1 op2 r2 : BitVec 4) (lo : Half) : Option Instr :=
  match r1 with
  | 0xC#4 => some (.bc24 (op2 ++ r2 ++ lo))
  | 0xD#4 => some (.bnc24 (op2 ++ r2 ++ lo))
  | 0xE#4 => some (.bl24 (op2 ++ r2 ++ lo))
  | 0xF#4 => some (.bra24 (op2 ++ r2 ++ lo))
  | _ => none

/-- A 32-bit instruction by the columns of its first halfword and its second halfword (R118, op1 = 1000 to 1111).
Row 1100 holds no instruction. -/
def decodeLong (op1 r1 op2 r2 : BitVec 4) (lo : Half) : Option Instr :=
  match op1 with
  | 0x8#4 => decodeRow8 r1 op2 r2 lo
  | 0x9#4 => decodeRow9 r1 op2 r2 lo
  | 0xA#4 => decodeRowA r1 op2 r2 lo
  | 0xB#4 => decodeRowB r1 op2 r2 lo
  | 0xD#4 => decodeRowD r1 op2 r2 lo
  | 0xE#4 => some (.ld24 r1.toFin (op2 ++ r2 ++ lo))
  | 0xF#4 => decodeRowF r1 op2 r2 lo
  | _ => none

/-- The 16-bit instruction a halfword is, if it is one. -/
def decode16 (h : Half) : Option Instr :=
  decodeShort (column h 12) (column h 8) (column h 4) (column h 0)

/-- The 32-bit instruction two halfwords are, if they are one. -/
def decode32 (hi lo : Half) : Option Instr :=
  decodeLong (column hi 12) (column hi 8) (column hi 4) (column hi 0) lo

/-- A match in the table, or the error R123 makes of its absence. -/
def orUndefined : Option Instr → Except DecodeError Instr
  | some i => .ok i
  | none => .error .undefinedEncoding

/-- The decode procedure of R122 on the halfwords from the program counter on: in the upper slot the top bit
decides the length (R111), in the lower slot it marks the parallel NOP (R113). -/
def decodeHalves (slot : Slot) : List Half → Except DecodeError Instr
  | [] => .error .truncated
  | h :: rest =>
    match slot with
    | .upper =>
      if h.msb then
        match rest with
        | [] => .error .truncated
        | lo :: _ => orUndefined (decode32 h lo)
      else orUndefined (decode16 h)
    | .lower =>
      if h.msb then (if h = 0xF000#16 then .ok .nop else .error .parallelNotNop)
      else orUndefined (decode16 h)

/-- Bytes taken two by two as halfwords, the first byte the more significant (R85). -/
def halves : List Byte → List Half
  | b0 :: b1 :: rest => (b0 ++ b1) :: halves rest
  | _ => []

/-- The instruction that the bytes from the program counter on hold (R122). -/
def decode (slot : Slot) (bytes : List Byte) : Except DecodeError Instr :=
  decodeHalves slot (halves bytes)

/-- A register number as its 4-bit field (R115). -/
def regField (r : Reg) : BitVec 4 := BitVec.ofFin r

/-- The 4-bit field that holds a bit position below a fixed 0 (R114, format F16_BIT). -/
def bitField (p : Fin 8) : BitVec 4 := 0#1 ++ (BitVec.ofFin p : BitVec 3)

/-- A halfword whose last two columns are an 8-bit field (R114, formats F16_RI8, F16_I8, F16_B8). -/
def halfWith8 (c0 c1 : BitVec 4) (v : BitVec 8) : Half :=
  halfOf c0 c1 (v.extractLsb' 4 4) (v.extractLsb' 0 4)

/-- A halfword that ends in a 3-bit opcode and a 5-bit amount (R114, format F16_RI5). -/
def halfWith5 (c0 c1 : BitVec 4) (op : BitVec 3) (v : BitVec 5) : Half :=
  halfOf c0 c1 (op ++ v.extractLsb' 4 1) (v.extractLsb' 0 4)

/-- The two halfwords of an instruction that ends in a 24-bit field (R114, formats F32_RI24, F32_B24). -/
def halvesWith24 (c0 c1 : BitVec 4) (v : BitVec 24) : List Half :=
  [halfOf c0 c1 (v.extractLsb' 20 4) (v.extractLsb' 16 4), v.extractLsb' 0 16]

/-- The two halfwords of an FPU instruction (R360). -/
def halvesFpu (r1 r2 : Reg) (op3 : BitVec 4) (dest : Reg) (op4 : BitVec 4) : List Half :=
  [halfOf 0xD#4 (regField r1) 0x0#4 (regField r2), halfOf op3 (regField dest) op4 0x0#4]

/-- The halfwords of an instruction, the first at the lowest address, from the encodings printed with each
instruction's rule. -/
def encode : Instr → List Half
  | .ld d s => [halfOf 0x2#4 (regField d) 0xC#4 (regField s)]
  | .ldPostInc d s => [halfOf 0x2#4 (regField d) 0xE#4 (regField s)]
  | .ldDisp d disp s => [halfOf 0xA#4 (regField d) 0xC#4 (regField s), disp]
  | .ldb d s => [halfOf 0x2#4 (regField d) 0x8#4 (regField s)]
  | .ldbDisp d disp s => [halfOf 0xA#4 (regField d) 0x8#4 (regField s), disp]
  | .ldub d s => [halfOf 0x2#4 (regField d) 0x9#4 (regField s)]
  | .ldubDisp d disp s => [halfOf 0xA#4 (regField d) 0x9#4 (regField s), disp]
  | .ldh d s => [halfOf 0x2#4 (regField d) 0xA#4 (regField s)]
  | .ldhDisp d disp s => [halfOf 0xA#4 (regField d) 0xA#4 (regField s), disp]
  | .lduh d s => [halfOf 0x2#4 (regField d) 0xB#4 (regField s)]
  | .lduhDisp d disp s => [halfOf 0xA#4 (regField d) 0xB#4 (regField s), disp]
  | .lock d s => [halfOf 0x2#4 (regField d) 0xD#4 (regField s)]
  | .st a b => [halfOf 0x2#4 (regField a) 0x4#4 (regField b)]
  | .stPreInc a b => [halfOf 0x2#4 (regField a) 0x6#4 (regField b)]
  | .stPreDec a b => [halfOf 0x2#4 (regField a) 0x7#4 (regField b)]
  | .stDisp a disp b => [halfOf 0xA#4 (regField a) 0x4#4 (regField b), disp]
  | .stb a b => [halfOf 0x2#4 (regField a) 0x0#4 (regField b)]
  | .stbDisp a disp b => [halfOf 0xA#4 (regField a) 0x0#4 (regField b), disp]
  | .sth a b => [halfOf 0x2#4 (regField a) 0x2#4 (regField b)]
  | .sthPostInc a b => [halfOf 0x2#4 (regField a) 0x3#4 (regField b)]
  | .sthDisp a disp b => [halfOf 0xA#4 (regField a) 0x2#4 (regField b), disp]
  | .unlock a b => [halfOf 0x2#4 (regField a) 0x5#4 (regField b)]
  | .ld24 d imm => halvesWith24 0xE#4 (regField d) imm
  | .ldi8 d imm => [halfWith8 0x6#4 (regField d) imm]
  | .ldi16 d imm => [halfOf 0x9#4 (regField d) 0xF#4 0x0#4, imm]
  | .seth d imm => [halfOf 0xD#4 (regField d) 0xC#4 0x0#4, imm]
  | .mv d s => [halfOf 0x1#4 (regField d) 0x8#4 (regField s)]
  | .mvfc d cr => [halfOf 0x1#4 (regField d) 0x9#4 (regField cr)]
  | .mvtc s cr => [halfOf 0x1#4 (regField cr) 0xA#4 (regField s)]
  | .cmp a b => [halfOf 0x0#4 (regField a) 0x4#4 (regField b)]
  | .cmpi s imm => [halfOf 0x8#4 0x0#4 0x4#4 (regField s), imm]
  | .cmpu a b => [halfOf 0x0#4 (regField a) 0x5#4 (regField b)]
  | .cmpui s imm => [halfOf 0x8#4 0x0#4 0x5#4 (regField s), imm]
  | .add d s => [halfOf 0x0#4 (regField d) 0xA#4 (regField s)]
  | .add3 d s imm => [halfOf 0x8#4 (regField d) 0xA#4 (regField s), imm]
  | .addi d imm => [halfWith8 0x4#4 (regField d) imm]
  | .addv d s => [halfOf 0x0#4 (regField d) 0x8#4 (regField s)]
  | .addv3 d s imm => [halfOf 0x8#4 (regField d) 0x8#4 (regField s), imm]
  | .addx d s => [halfOf 0x0#4 (regField d) 0x9#4 (regField s)]
  | .neg d s => [halfOf 0x0#4 (regField d) 0x3#4 (regField s)]
  | .sub d s => [halfOf 0x0#4 (regField d) 0x2#4 (regField s)]
  | .subv d s => [halfOf 0x0#4 (regField d) 0x0#4 (regField s)]
  | .subx d s => [halfOf 0x0#4 (regField d) 0x1#4 (regField s)]
  | .and d s => [halfOf 0x0#4 (regField d) 0xC#4 (regField s)]
  | .and3 d s imm => [halfOf 0x8#4 (regField d) 0xC#4 (regField s), imm]
  | .not d s => [halfOf 0x0#4 (regField d) 0xB#4 (regField s)]
  | .or d s => [halfOf 0x0#4 (regField d) 0xE#4 (regField s)]
  | .or3 d s imm => [halfOf 0x8#4 (regField d) 0xE#4 (regField s), imm]
  | .xor d s => [halfOf 0x0#4 (regField d) 0xD#4 (regField s)]
  | .xor3 d s imm => [halfOf 0x8#4 (regField d) 0xD#4 (regField s), imm]
  | .mul d s => [halfOf 0x1#4 (regField d) 0x6#4 (regField s)]
  | .div d s => [halfOf 0x9#4 (regField d) 0x0#4 (regField s), 0x0000#16]
  | .divu d s => [halfOf 0x9#4 (regField d) 0x1#4 (regField s), 0x0000#16]
  | .rem d s => [halfOf 0x9#4 (regField d) 0x2#4 (regField s), 0x0000#16]
  | .remu d s => [halfOf 0x9#4 (regField d) 0x3#4 (regField s), 0x0000#16]
  | .sll d s => [halfOf 0x1#4 (regField d) 0x4#4 (regField s)]
  | .sll3 d s imm => [halfOf 0x9#4 (regField d) 0xC#4 (regField s), imm]
  | .slli d imm => [halfWith5 0x5#4 (regField d) 2#3 imm]
  | .sra d s => [halfOf 0x1#4 (regField d) 0x2#4 (regField s)]
  | .sra3 d s imm => [halfOf 0x9#4 (regField d) 0xA#4 (regField s), imm]
  | .srai d imm => [halfWith5 0x5#4 (regField d) 1#3 imm]
  | .srl d s => [halfOf 0x1#4 (regField d) 0x0#4 (regField s)]
  | .srl3 d s imm => [halfOf 0x9#4 (regField d) 0x8#4 (regField s), imm]
  | .srli d imm => [halfWith5 0x5#4 (regField d) 0#3 imm]
  | .bc8 p => [halfWith8 0x7#4 0xC#4 p]
  | .bc24 p => halvesWith24 0xF#4 0xC#4 p
  | .bnc8 p => [halfWith8 0x7#4 0xD#4 p]
  | .bnc24 p => halvesWith24 0xF#4 0xD#4 p
  | .beq a b p => [halfOf 0xB#4 (regField a) 0x0#4 (regField b), p]
  | .bne a b p => [halfOf 0xB#4 (regField a) 0x1#4 (regField b), p]
  | .beqz s p => [halfOf 0xB#4 0x0#4 0x8#4 (regField s), p]
  | .bnez s p => [halfOf 0xB#4 0x0#4 0x9#4 (regField s), p]
  | .bgez s p => [halfOf 0xB#4 0x0#4 0xB#4 (regField s), p]
  | .bgtz s p => [halfOf 0xB#4 0x0#4 0xD#4 (regField s), p]
  | .blez s p => [halfOf 0xB#4 0x0#4 0xC#4 (regField s), p]
  | .bltz s p => [halfOf 0xB#4 0x0#4 0xA#4 (regField s), p]
  | .bra8 p => [halfWith8 0x7#4 0xF#4 p]
  | .bra24 p => halvesWith24 0xF#4 0xF#4 p
  | .bl8 p => [halfWith8 0x7#4 0xE#4 p]
  | .bl24 p => halvesWith24 0xF#4 0xE#4 p
  | .jl s => [halfOf 0x1#4 0xE#4 0xC#4 (regField s)]
  | .jmp s => [halfOf 0x1#4 0xF#4 0xC#4 (regField s)]
  | .nop => [halfOf 0x7#4 0x0#4 0x0#4 0x0#4]
  | .trap n => [halfOf 0x1#4 0x0#4 0xF#4 (regField n)]
  | .rte => [halfOf 0x1#4 0x0#4 0xD#4 0x6#4]
  | .machi a b => [halfOf 0x3#4 (regField a) 0x4#4 (regField b)]
  | .maclo a b => [halfOf 0x3#4 (regField a) 0x5#4 (regField b)]
  | .macwhi a b => [halfOf 0x3#4 (regField a) 0x6#4 (regField b)]
  | .macwlo a b => [halfOf 0x3#4 (regField a) 0x7#4 (regField b)]
  | .mulhi a b => [halfOf 0x3#4 (regField a) 0x0#4 (regField b)]
  | .mullo a b => [halfOf 0x3#4 (regField a) 0x1#4 (regField b)]
  | .mulwhi a b => [halfOf 0x3#4 (regField a) 0x2#4 (regField b)]
  | .mulwlo a b => [halfOf 0x3#4 (regField a) 0x3#4 (regField b)]
  | .mvfachi d => [halfOf 0x5#4 (regField d) 0xF#4 0x0#4]
  | .mvfaclo d => [halfOf 0x5#4 (regField d) 0xF#4 0x1#4]
  | .mvfacmi d => [halfOf 0x5#4 (regField d) 0xF#4 0x2#4]
  | .mvtachi s => [halfOf 0x5#4 (regField s) 0x7#4 0x0#4]
  | .mvtaclo s => [halfOf 0x5#4 (regField s) 0x7#4 0x1#4]
  | .rac => [halfOf 0x5#4 0x0#4 0x9#4 0x0#4]
  | .rach => [halfOf 0x5#4 0x0#4 0x8#4 0x0#4]
  | .fadd d a b => halvesFpu a b 0x0#4 d 0x0#4
  | .fsub d a b => halvesFpu a b 0x0#4 d 0x4#4
  | .fmul d a b => halvesFpu a b 0x1#4 d 0x0#4
  | .fdiv d a b => halvesFpu a b 0x2#4 d 0x0#4
  | .fmadd d a b => halvesFpu a b 0x3#4 d 0x0#4
  | .fmsub d a b => halvesFpu a b 0x3#4 d 0x4#4
  | .itof d s => halvesFpu s 0 0x4#4 d 0x0#4
  | .utof d s => halvesFpu s 0 0x4#4 d 0x4#4
  | .ftoi d s => halvesFpu s 0 0x4#4 d 0x8#4
  | .ftos d s => halvesFpu s 0 0x4#4 d 0xC#4
  | .fcmp d a b => halvesFpu a b 0x0#4 d 0xC#4
  | .fcmpe d a b => halvesFpu a b 0x0#4 d 0xD#4
  | .bset p disp s => [halfOf 0xA#4 (bitField p) 0x6#4 (regField s), disp]
  | .bclr p disp s => [halfOf 0xA#4 (bitField p) 0x7#4 (regField s), disp]
  | .btst p s => [halfOf 0x0#4 (bitField p) 0xF#4 (regField s)]
  | .setpsw imm => [halfWith8 0x7#4 0x1#4 imm]
  | .clrpsw imm => [halfWith8 0x7#4 0x2#4 imm]

/-- The bytes of a list of halfwords, the more significant byte of each first (R85). -/
def bytesOfHalves : List Half → List Byte
  | [] => []
  | h :: rest => h.extractLsb' 8 8 :: h.extractLsb' 0 8 :: bytesOfHalves rest

/-- The bytes of an instruction in the order they lie in memory. -/
def encodeBytes (i : Instr) : List Byte := bytesOfHalves (encode i)

/-- The instruction has 32 bits (R110). -/
def Instr.isLong (i : Instr) : Bool := (encode i).length == 2

/-- The bytes of an instruction given as spec/opcode_table.json numbers it: one number, of 16 or of 32 bits,
whose bits 31..16 (or 15..0) are the first halfword. Bytes the number does not have are zero. -/
def tableBytes (nbits w : Nat) : List Byte :=
  let hi : Half := BitVec.ofNat 16 (if nbits ≤ 16 then w else w / 65536)
  let lo : Half := BitVec.ofNat 16 (if nbits ≤ 16 then 0 else w)
  bytesOfHalves [hi, lo]

/-- The instruction the decoder reads from a word of spec/opcode_table.json laid out as the hardware stores it, at a
word-aligned address. -/
def decodeTableWord (nbits w : Nat) : Option Instr :=
  match decode .upper (tableBytes nbits w) with
  | .ok i => some i
  | .error _ => none

end Sys2Proof
end

