-- ==== Sys2Proof/Machine/Ops.lean ====
section
/-! DEFINITION. The named operations over registers, control registers, program counter and memory, taking an EIT and
returning from one. Every instruction's meaning is written over these. -/

namespace Sys2Proof.Machine

/-- A word with bit `k` set to `b`. -/
def putBit (w : Word) (k : Nat) (b : Bool) : Word :=
  if b then w ||| (1#32 <<< k) else w &&& ~~~(1#32 <<< k)

-- ## PSW and its bits (10_state.md R30)

/-- PSW.SM, the stack mode: false selects SPI as R15, true selects SPU. -/
def State.sm (s : State) : Bool := s.psw.getLsbD 7

/-- PSW.IE, the interrupt enable. -/
def State.ie (s : State) : Bool := s.psw.getLsbD 6

/-- PSW.C, the condition bit. -/
def State.c (s : State) : Bool := s.psw.getLsbD 0

/-- PSW.BSM, the backup of SM. -/
def State.bsm (s : State) : Bool := s.psw.getLsbD 15

/-- PSW.BIE, the backup of IE. -/
def State.bie (s : State) : Bool := s.psw.getLsbD 14

/-- PSW.BC, the backup of C. -/
def State.bc (s : State) : Bool := s.psw.getLsbD 8

/-- The bits of PSW that exist: BSM, BIE, BC, SM, IE, C (R32). -/
def pswMask : Word := 0x0000C1C1#32

/-- Write the whole PSW: bits where nothing is placed keep nothing (R32, D13); BSM, BIE, BC are defined from here on
(U2). -/
def State.setPsw (s : State) (v : Word) : State := { s with psw := v &&& pswMask, bpswOpen := false }

/-- Write the condition bit and no other bit of PSW (R28). -/
def State.setC (s : State) (b : Bool) : State := { s with psw := putBit s.psw 0 b }

-- ## General registers (10_state.md R21, R22)

/-- The stack pointer R15 names: SPI while SM = 0, SPU while SM = 1 (R22). -/
def State.stackPointer (s : State) : Word := if s.sm then s.spu else s.spi

/-- Write the stack pointer R15 names (R22). -/
def State.setStackPointer (s : State) (v : Word) : State :=
  if s.sm then { s with spu := v } else { s with spi := v }

/-- Read general register `r`; R15 is banked (R22). -/
def State.reg (s : State) (r : Reg) : Word :=
  if h : r.val < 15 then s.gprs[r.val] else s.stackPointer

/-- Write general register `r`; R15 is banked (R22). -/
def State.setReg (s : State) (r : Reg) (v : Word) : State :=
  if h : r.val < 15 then { s with gprs := s.gprs.set r.val v } else s.setStackPointer v

-- ## The other control registers

/-- CBR: the condition bit at bit 0, every other bit 0 (R35, R36). -/
def State.cbr (s : State) : Word := s.psw &&& 0x00000001#32

/-- The bits of BPC that can be written: bit 0 is fixed to 0 (R38). -/
def bpcMask : Word := 0xFFFFFFFE#32

/-- Write BPC (R38), which is defined from here on (U2). -/
def State.setBpc (s : State) (v : Word) : State := { s with bpc := v &&& bpcMask, bpcOpen := false }

/-- The bits of FPSR that MVTC writes with the value given: flags, enables, DN, RM (R48). -/
def fpsrPlainMask : Word := 0x7C007D03#32

/-- The cause bits of FPSR, CE CX CU CZ CO CV (R46, R48). -/
def fpsrCauseMask : Word := 0x000000FC#32

/-- FS as read: the OR of FU, FZ, FO, FV, without FX (R40, R43). -/
def fpsrSummary (v : Word) : Bool := v.getLsbD 29 || v.getLsbD 28 || v.getLsbD 27 || v.getLsbD 26

/-- FPSR as MVFC reads it: the stored bits with FS computed at bit 31; bits where nothing is placed read 0 (R43,
R48). -/
def State.fpsrRead (s : State) : Word :=
  putBit (s.fpsr &&& (fpsrPlainMask ||| fpsrCauseMask)) 31 (fpsrSummary s.fpsr)

/-- The FPSR that MVTC stores for the written value `v`: a cause bit is cleared by 0 and kept by 1, the plain bits take
the value, the rest is ignored (R46, R48). -/
def fpsrWritten (old v : Word) : Word := (v &&& fpsrPlainMask) ||| (old &&& v &&& fpsrCauseMask)

/-- Read the control register of a number; none where the manual defines no register (R29, 41_transfer.md R184). -/
def State.readCtrl (s : State) (n : CtrlNum) : Option Word :=
  if n = 0 then some (s.psw &&& pswMask)
  else if n = 1 then some s.cbr
  else if n = 2 then some s.spi
  else if n = 3 then some s.spu
  else if n = 6 then some (s.bpc &&& bpcMask)
  else if n = 7 then some s.fpsrRead
  else none

/-- Write the control register of a number; CBR ignores the write (R35, 41_transfer.md R185). -/
def State.writeCtrl (s : State) (n : CtrlNum) (v : Word) : Option State :=
  if n = 0 then some (s.setPsw v)
  else if n = 1 then some s
  else if n = 2 then some { s with spi := v }
  else if n = 3 then some { s with spu := v }
  else if n = 6 then some (s.setBpc v)
  else if n = 7 then some { s with fpsr := fpsrWritten s.fpsr v }
  else none

-- ## Program counter (10_state.md R25 to R27)

/-- Go on to the next instruction after one of `len` bytes, modulo 2^32 (R26, R27). -/
def State.advance (s : State) (len : Word) : State := { s with pc := s.pc + len }

/-- Transfer control. -/
def State.jumpTo (s : State) (target : Word) : State := { s with pc := target }

/-- End a 16-bit instruction (R26). -/
def endShort (s : State) : Result := .next (s.advance 2)

/-- End a 32-bit instruction (R26). -/
def endLong (s : State) : Result := .next (s.advance 4)

/-- An address with its low two bits cleared (R27, 43_branch.md R251). -/
def wordAligned (a : Word) : Word := a &&& 0xFFFFFFFC#32

/-- Which slot of its word an instruction at `pc` lies in (30_encoding.md R111, R112). -/
def slotOf (pc : Word) : Slot := if pc.getLsbD 1 then .lower else .upper

-- ## Memory (20_memory.md R80 to R86)

/-- The byte at a key of the list: the first entry for it, or what an unlisted address reads as. -/
def lookupByte : Memory → Nat → Byte
  | [], _ => unlistedByte
  | c :: rest, k => if c.1 = k then c.2 else lookupByte rest k

/-- The list with a byte that is not the unlisted one stored at a key, addresses kept rising. -/
def insertByte (k : Nat) (b : Byte) : Memory → Memory
  | [] => [(k, b)]
  | c :: rest =>
    if k < c.1 then (k, b) :: c :: rest
    else if k = c.1 then (k, b) :: rest
    else c :: insertByte k b rest

/-- Store a byte at a key; storing what an unlisted address reads as removes the entry, so that equal memories are
equal lists. -/
def storeByte (m : Memory) (k : Nat) (b : Byte) : Memory :=
  if b = unlistedByte then m.filter (fun c => decide (c.1 ≠ k)) else insertByte k b m

/-- The canonical form: addresses below 2^32 and strictly rising, no entry equal to what an unlisted address reads
as. -/
def memoryCanonical : Memory → Bool
  | [] => true
  | c :: rest =>
    decide (c.1 < 2 ^ 32) && decide (c.2 ≠ unlistedByte) && rest.all (fun d => decide (c.1 < d.1)) &&
      memoryCanonical rest

/-- The state's memory is in its canonical form. -/
def Memory.wf (m : Memory) : Bool := memoryCanonical m

/-- Read one byte (R84). -/
def State.readByte (s : State) (a : Word) : Byte := lookupByte s.mem a.toNat

/-- Read a halfword, the byte at the lower address the more significant (R84). -/
def State.readHalf (s : State) (a : Word) : Half := s.readByte a ++ s.readByte (a + 1)

/-- Read a word, the byte at the lowest address the most significant (R84). -/
def State.readWord (s : State) (a : Word) : Word :=
  s.readByte a ++ s.readByte (a + 1) ++ s.readByte (a + 2) ++ s.readByte (a + 3)

/-- Write one byte (R84). -/
def State.writeByte (s : State) (a : Word) (b : Byte) : State := { s with mem := storeByte s.mem a.toNat b }

/-- Write a halfword, its more significant byte at the lower address (R84). -/
def State.writeHalf (s : State) (a : Word) (v : Half) : State :=
  (s.writeByte a (v.extractLsb' 8 8)).writeByte (a + 1) (v.extractLsb' 0 8)

/-- Write a word, its most significant byte at the lowest address (R84). -/
def State.writeWord (s : State) (a : Word) (v : Word) : State :=
  (((s.writeByte a (v.extractLsb' 24 8)).writeByte (a + 1) (v.extractLsb' 16 8)).writeByte (a + 2)
    (v.extractLsb' 8 8)).writeByte (a + 3) (v.extractLsb' 0 8)

/-- The four bytes an instruction can have, from the program counter on (20_memory.md R85, R101: fetch reads memory
when the instruction executes). -/
def State.fetchBytes (s : State) : List Byte :=
  [s.readByte s.pc, s.readByte (s.pc + 1), s.readByte (s.pc + 2), s.readByte (s.pc + 3)]

-- ## Taking an EIT and returning from one (60_exceptions.md R420, 44_eit_instructions.md R282)

/-- The address at which an EIT is entered (R425). -/
def eitEntryAddress (v : EitVectors) (k : EitKind) : Word :=
  (match k with
    | .ae => v.ae
    | .fpe => v.fpe
    | .ei => v.ei
    | .trap n => v.trap[n.val]) ++ 0#2

/-- PSW at entry (R420): BSM, BIE, BC take SM, IE, C, each eight positions up (10_state.md R31); IE and C become 0; SM
is kept, but for the interrupt, which clears it. -/
def pswAtEntry (k : EitKind) (psw : Word) : Word :=
  ((psw &&& 0x000000C1#32) <<< 8) ||| (if k = .ei then 0#32 else psw &&& 0x00000080#32)

/-- Take an EIT (R420): BPC takes the given address, PSW its entry value, both defined from here on (U2), and control
goes to the entry address. Nothing else changes; no memory is touched (R426). -/
def State.takeEit (s : State) (k : EitKind) (bpcValue : Word) : State :=
  { s with
    bpc := bpcValue &&& bpcMask
    psw := pswAtEntry k s.psw
    pc := eitEntryAddress s.vectors k
    bpswOpen := false
    bpcOpen := false }

/-- Take the address exception: BPC is the address of the instruction that raised it (R421), which changes nothing
else (R410, D14). -/
def State.takeAe (s : State) : State := s.takeEit .ae s.pc

/-- PSW after RTE (R282): SM, IE, C take BSM, BIE, BC, and the backup bits take the free bits `b`, BSM first. -/
def pswAfterRte (psw : Word) (b : BitVec 3) : Word :=
  ((psw >>> 8) &&& 0x000000C1#32) |||
    putBit (putBit (putBit 0#32 15 (b.getLsbD 2)) 14 (b.getLsbD 1)) 8 (b.getLsbD 0)

/-- What RTE uses is defined: BSM, BIE, BC and BPC have each been written since the last RTE left them undefined
(R282, U2). -/
def State.returnDefined (s : State) : Bool := !s.bpswOpen && !s.bpcOpen

/-- Return from an EIT (R282, R435): control goes to BPC with its low two bits cleared, SM, IE, C are restored, and
BSM, BIE, BC, BPC are free values from here on, which no further RTE may use (U2). -/
def State.returnFromEit (s : State) : State :=
  { s with
    pc := wordAligned s.bpc
    psw := pswAfterRte s.psw (Config.backupAfterRte s.draws)
    bpc := Config.bpcAfterRte s.draws &&& bpcMask
    draws := s.draws + 1
    bpswOpen := true
    bpcOpen := true }

-- ## Alignment of a data access (20_memory.md R86)

/-- The width of a data access (R83). -/
inductive AccessWidth where
  | byte
  | half
  | word
  deriving DecidableEq, Repr

/-- The address is one the width may be accessed at (R86). -/
def AccessWidth.alignedAt (w : AccessWidth) (ea : Word) : Bool :=
  match w with
  | .byte => true
  | .half => !ea.getLsbD 0
  | .word => !ea.getLsbD 0 && !ea.getLsbD 1

/-- End a data access at `ea`: where the address is aligned the access leaves `done`; where it is not, the instruction
takes the address exception and nothing else of it happens (R86, R88). -/
def accessOrAe (w : AccessWidth) (ea : Word) (s done : State) : Result :=
  .next (if w.alignedAt ea then done else s.takeAe)

-- ## Between instructions (60_exceptions.md R430)

/-- The interrupt request at this instruction boundary (R430). -/
def State.intRequest (s : State) : Bool := s.intRequests.headD false

/-- Past this instruction boundary: the environment's next value comes up. -/
def State.pastBoundary (s : State) : State := { s with intRequests := s.intRequests.tail }

/-- The interrupt is accepted before the instruction at the program counter: a request is there, IE = 1 and the program
counter is word-aligned (R430, R431). -/
def State.acceptsInterrupt (s : State) : Bool := s.intRequest && s.ie && s.pc == wordAligned s.pc

/-- Take the interrupt: BPC is the address of the instruction not yet started (R424). -/
def State.takeInterrupt (s : State) : State := s.takeEit .ei s.pc

end Sys2Proof.Machine
end

