-- ==== Sys2Proof/Machine/Operands.lean ====
section
/-! DEFINITION. Every operand form: how the fields of an instruction become values (30_encoding.md R116), effective
addresses (20_memory.md R93), branch targets (43_branch.md R251). -/

namespace Sys2Proof.Machine

/-- A sign-extended immediate or displacement (R116). -/
def signedField {n : Nat} (v : BitVec n) : Word := v.signExtend 32

/-- A zero-extended immediate (R116). -/
def unsignedField {n : Nat} (v : BitVec n) : Word := v.setWidth 32

/-- The immediate of SETH: imm16 above sixteen zeros (41_transfer.md R187). -/
def highHalf (imm16 : BitVec 16) : Word := imm16 ++ 0#16

/-- A shift amount: the low five bits (42_arith_logic.md R229). -/
def shiftAmount {n : Nat} (v : BitVec n) : Nat := v.toNat % 32

/-- `@R`: the address is the register (R93). -/
def State.eaIndirect (s : State) (base : Reg) : Word := s.reg base

/-- `@(disp16,R)`: the register plus the sign-extended, unscaled displacement, modulo 2^32 (R93, D12). -/
def State.eaDisplaced (s : State) (disp16 : BitVec 16) (base : Reg) : Word := s.reg base + signedField disp16

/-- `@+R`: the register plus 4, which it is updated to (R93). -/
def State.eaPreIncrement (s : State) (base : Reg) : Word := s.reg base + 4

/-- `@-R`: the register minus 4, which it is updated to (R93). -/
def State.eaPreDecrement (s : State) (base : Reg) : Word := s.reg base - 4

/-- The target of a PC-relative branch at `pc`: the word that holds the branch plus four times the signed displacement
(43_branch.md R251). -/
def branchTarget {n : Nat} (pc : Word) (pcdisp : BitVec n) : Word := wordAligned pc + (signedField pcdisp <<< 2)

/-- The return address of BL and JL at `pc`: the next word (43_branch.md R271). -/
def linkAddress (pc : Word) : Word := wordAligned pc + 4

/-- The link register, R14 (10_state.md R23). -/
def linkReg : Reg := 14

/-- The upper halfword of a register as a signed integer (45_dsp.md R306). -/
def signedHigh (w : Word) : Int := (w.extractLsb' 16 16).toInt

/-- The lower halfword of a register as a signed integer (45_dsp.md R306). -/
def signedLow (w : Word) : Int := (w.extractLsb' 0 16).toInt

/-- The accumulator as the 64-bit value its instructions see, sign-extended from its bit 55 (10_state.md R49). -/
def State.acc64 (s : State) : BitVec 64 := s.acc.signExtend 64

/-- Store a mathematical integer in the accumulator, modulo 2^56 (45_dsp.md R306). -/
def State.setAccInt (s : State) (v : Int) : State := { s with acc := BitVec.ofInt 56 v }

end Sys2Proof.Machine
end

