-- ==== Sys2Proof/Machine/Arith.lean ====
section
/-! DEFINITION. The operation instructions: compare, arithmetic, logic, multiply and divide, shift
(42_arith_logic.md). Sources are read before the destination is written; C changes only where a rule says so (R200). -/

namespace Sys2Proof.Machine

/-- End a 16-bit instruction that writes one register (R200). -/
def resultShort (dest : Reg) (v : Word) (s : State) : Result := endShort (s.setReg dest v)

/-- End a 32-bit instruction that writes one register (R200). -/
def resultLong (dest : Reg) (v : Word) (s : State) : Result := endLong (s.setReg dest v)

-- ## Compare

/-- CMP Rsrc1,Rsrc2 (R201). -/
def execCmp (src1 src2 : Reg) (s : State) : Result := endShort (s.setC (signedLess (s.reg src1) (s.reg src2)))

/-- CMPI Rsrc,#imm16 (R202). -/
def execCmpi (src : Reg) (imm16 : BitVec 16) (s : State) : Result :=
  endLong (s.setC (signedLess (s.reg src) (signedField imm16)))

/-- CMPU Rsrc1,Rsrc2 (R203). -/
def execCmpu (src1 src2 : Reg) (s : State) : Result :=
  endShort (s.setC (unsignedLess (s.reg src1) (s.reg src2)))

/-- CMPUI Rsrc,#imm16 (R204): the immediate is sign-extended, the comparison unsigned. -/
def execCmpui (src : Reg) (imm16 : BitVec 16) (s : State) : Result :=
  endLong (s.setC (unsignedLess (s.reg src) (signedField imm16)))

-- ## Arithmetic

/-- ADD Rdest,Rsrc (R205). -/
def execAdd (dest src : Reg) (s : State) : Result := resultShort dest (s.reg dest + s.reg src) s

/-- ADD3 Rdest,Rsrc,#imm16 (R206). -/
def execAdd3 (dest src : Reg) (imm16 : BitVec 16) (s : State) : Result :=
  resultLong dest (s.reg src + signedField imm16) s

/-- ADDI Rdest,#imm8 (R207). -/
def execAddi (dest : Reg) (imm8 : BitVec 8) (s : State) : Result :=
  resultShort dest (s.reg dest + signedField imm8) s

/-- ADDV Rdest,Rsrc (R208): C is signed overflow. -/
def execAddv (dest src : Reg) (s : State) : Result :=
  endShort ((s.setReg dest (s.reg dest + s.reg src)).setC (addOverflows (s.reg dest) (s.reg src)))

/-- ADDV3 Rdest,Rsrc,#imm16 (R209): C is signed overflow. -/
def execAddv3 (dest src : Reg) (imm16 : BitVec 16) (s : State) : Result :=
  endLong ((s.setReg dest (s.reg src + signedField imm16)).setC (addOverflows (s.reg src) (signedField imm16)))

/-- ADDX Rdest,Rsrc (R210): C is carry in and carry out. -/
def execAddx (dest src : Reg) (s : State) : Result :=
  endShort ((s.setReg dest (BitVec.ofNat 32 (sumWithCarry (s.reg dest) (s.reg src) s.c))).setC
    (carryOut (s.reg dest) (s.reg src) s.c))

/-- NEG Rdest,Rsrc (R211). -/
def execNeg (dest src : Reg) (s : State) : Result := resultShort dest (0 - s.reg src) s

/-- SUB Rdest,Rsrc (R212). -/
def execSub (dest src : Reg) (s : State) : Result := resultShort dest (s.reg dest - s.reg src) s

/-- SUBV Rdest,Rsrc (R213): C is signed overflow. -/
def execSubv (dest src : Reg) (s : State) : Result :=
  endShort ((s.setReg dest (s.reg dest - s.reg src)).setC (subOverflows (s.reg dest) (s.reg src)))

/-- SUBX Rdest,Rsrc (R214): C is borrow in and borrow out. -/
def execSubx (dest src : Reg) (s : State) : Result :=
  endShort ((s.setReg dest (BitVec.ofInt 32 (differenceWithBorrow (s.reg dest) (s.reg src) s.c))).setC
    (borrowOut (s.reg dest) (s.reg src) s.c))

-- ## Logic

/-- AND Rdest,Rsrc (R215). -/
def execAnd (dest src : Reg) (s : State) : Result := resultShort dest (s.reg dest &&& s.reg src) s

/-- AND3 Rdest,Rsrc,#imm16 (R216): the immediate is zero-extended. -/
def execAnd3 (dest src : Reg) (imm16 : BitVec 16) (s : State) : Result :=
  resultLong dest (s.reg src &&& unsignedField imm16) s

/-- NOT Rdest,Rsrc (R217). -/
def execNot (dest src : Reg) (s : State) : Result := resultShort dest (~~~ s.reg src) s

/-- OR Rdest,Rsrc (R218). -/
def execOr (dest src : Reg) (s : State) : Result := resultShort dest (s.reg dest ||| s.reg src) s

/-- OR3 Rdest,Rsrc,#imm16 (R219): the immediate is zero-extended. -/
def execOr3 (dest src : Reg) (imm16 : BitVec 16) (s : State) : Result :=
  resultLong dest (s.reg src ||| unsignedField imm16) s

/-- XOR Rdest,Rsrc (R220). -/
def execXor (dest src : Reg) (s : State) : Result := resultShort dest (s.reg dest ^^^ s.reg src) s

/-- XOR3 Rdest,Rsrc,#imm16 (R221): the immediate is zero-extended. -/
def execXor3 (dest src : Reg) (imm16 : BitVec 16) (s : State) : Result :=
  resultLong dest (s.reg src ^^^ unsignedField imm16) s

-- ## Multiply and divide

/-- MUL Rdest,Rsrc (R226): the low 32 bits of the signed product; the accumulator becomes a free value (R51, U4). -/
def execMul (dest src : Reg) (s : State) : Result :=
  endShort ({ s with acc := Config.accAfterMul s.draws, draws := s.draws + 1 }.setReg dest
    (BitVec.ofInt 32 ((s.reg dest).toInt * (s.reg src).toInt)))

/-- The operands of a signed division whose exact quotient, 2^31, is no 32-bit value (R224(g)). -/
def divisionOverflows (a b : Word) : Bool := a == 0x80000000#32 && b == 0xFFFFFFFF#32

/-- DIV Rdest,Rsrc (R222, R224): a zero divisor changes nothing; the quotient is rounded toward zero; the one
overflowing case delivers a free value (U5). -/
def execDiv (dest src : Reg) (s : State) : Result :=
  let a := s.reg dest
  let b := s.reg src
  if b = 0 then endLong s
  else if divisionOverflows a b then
    resultLong dest (Config.divOverflow s.draws a b) { s with draws := s.draws + 1 }
  else resultLong dest (BitVec.ofInt 32 (a.toInt.tdiv b.toInt)) s

/-- DIVU Rdest,Rsrc (R223, R224). -/
def execDivu (dest src : Reg) (s : State) : Result :=
  let a := s.reg dest
  let b := s.reg src
  if b = 0 then endLong s else resultLong dest (BitVec.ofNat 32 (a.toNat / b.toNat)) s

/-- REM Rdest,Rsrc (R227, R224): the remainder has the dividend's sign; the overflowing case delivers a free value
(U5). -/
def execRem (dest src : Reg) (s : State) : Result :=
  let a := s.reg dest
  let b := s.reg src
  if b = 0 then endLong s
  else if divisionOverflows a b then
    resultLong dest (Config.remOverflow s.draws a b) { s with draws := s.draws + 1 }
  else resultLong dest (BitVec.ofInt 32 (a.toInt - a.toInt.tdiv b.toInt * b.toInt)) s

/-- REMU Rdest,Rsrc (R228, R224). -/
def execRemu (dest src : Reg) (s : State) : Result :=
  let a := s.reg dest
  let b := s.reg src
  if b = 0 then endLong s else resultLong dest (BitVec.ofNat 32 (a.toNat % b.toNat)) s

-- ## Shift (R229)

/-- SLL Rdest,Rsrc (R230). -/
def execSll (dest src : Reg) (s : State) : Result :=
  resultShort dest (s.reg dest <<< shiftAmount (s.reg src)) s

/-- SLL3 Rdest,Rsrc,#imm16 (R231). -/
def execSll3 (dest src : Reg) (imm16 : BitVec 16) (s : State) : Result :=
  resultLong dest (s.reg src <<< shiftAmount imm16) s

/-- SLLI Rdest,#imm5 (R232). -/
def execSlli (dest : Reg) (imm5 : BitVec 5) (s : State) : Result :=
  resultShort dest (s.reg dest <<< shiftAmount imm5) s

/-- SRA Rdest,Rsrc (R233). -/
def execSra (dest src : Reg) (s : State) : Result :=
  resultShort dest ((s.reg dest).sshiftRight (shiftAmount (s.reg src))) s

/-- SRA3 Rdest,Rsrc,#imm16 (R234). -/
def execSra3 (dest src : Reg) (imm16 : BitVec 16) (s : State) : Result :=
  resultLong dest ((s.reg src).sshiftRight (shiftAmount imm16)) s

/-- SRAI Rdest,#imm5 (R235). -/
def execSrai (dest : Reg) (imm5 : BitVec 5) (s : State) : Result :=
  resultShort dest ((s.reg dest).sshiftRight (shiftAmount imm5)) s

/-- SRL Rdest,Rsrc (R236). -/
def execSrl (dest src : Reg) (s : State) : Result :=
  resultShort dest (s.reg dest >>> shiftAmount (s.reg src)) s

/-- SRL3 Rdest,Rsrc,#imm16 (R237). -/
def execSrl3 (dest src : Reg) (imm16 : BitVec 16) (s : State) : Result :=
  resultLong dest (s.reg src >>> shiftAmount imm16) s

/-- SRLI Rdest,#imm5 (R238). -/
def execSrli (dest : Reg) (imm5 : BitVec 5) (s : State) : Result :=
  resultShort dest (s.reg dest >>> shiftAmount imm5) s

end Sys2Proof.Machine
end

