-- ==== Sys2Proof/Machine/BitOps.lean ====
section
/-! DEFINITION. The bit-operation instructions (48_bitops.md). -/

namespace Sys2Proof.Machine

/-- The byte with only the bit that `bitpos` names (R390). -/
def bitMask (bitpos : Fin 8) : Byte := 1#8 <<< bitIndex bitpos

/-- A byte of memory read, changed and written back with the LOCK bit held; the LOCK bit is 0 afterwards whatever it
was before (R391). -/
def changeByteAt (ea : Word) (f : Byte → Byte) (s : State) : Result :=
  endLong { s.writeByte ea (f (s.readByte ea)) with lockBit := false }

/-- BSET #bitpos,@(disp16,Rsrc) (R391). -/
def execBset (bitpos : Fin 8) (disp16 : BitVec 16) (src : Reg) (s : State) : Result :=
  changeByteAt (s.eaDisplaced disp16 src) (fun v => v ||| bitMask bitpos) s

/-- BCLR #bitpos,@(disp16,Rsrc) (R392). -/
def execBclr (bitpos : Fin 8) (disp16 : BitVec 16) (src : Reg) (s : State) : Result :=
  changeByteAt (s.eaDisplaced disp16 src) (fun v => v &&& ~~~ bitMask bitpos) s

/-- BTST #bitpos,Rsrc (R395). -/
def execBtst (bitpos : Fin 8) (src : Reg) (s : State) : Result :=
  endShort (s.setC (testedBit bitpos (s.reg src)))

/-- The bits of PSW that an immediate of SETPSW or CLRPSW selects: SM, IE, C (R393, R394); its other bits have no
effect (30_encoding.md R125, D13). -/
def selectedPswBits (imm8 : BitVec 8) : Word := unsignedField imm8 &&& 0x000000C1#32

/-- SETPSW #imm8 (R393). -/
def execSetpsw (imm8 : BitVec 8) (s : State) : Result :=
  endShort { s with psw := s.psw ||| selectedPswBits imm8 }

/-- CLRPSW #imm8 (R394). -/
def execClrpsw (imm8 : BitVec 8) (s : State) : Result :=
  endShort { s with psw := s.psw &&& ~~~ selectedPswBits imm8 }

end Sys2Proof.Machine
end

