-- ==== Sys2Proof/Machine/Branch.lean ====
section
/-! DEFINITION. The branch instructions and NOP (43_branch.md). A branch raises no EIT and writes no register but R14
(R250). -/

namespace Sys2Proof.Machine

/-- A conditional branch of `len` bytes: to its target, or on to the next instruction (R251, R272). -/
def branchIf {n : Nat} (taken : Bool) (pcdisp : BitVec n) (len : Word) (s : State) : Result :=
  .next (if taken then s.jumpTo (branchTarget s.pc pcdisp) else s.advance len)

/-- A branch that leaves its return address in R14 (R271). -/
def branchAndLink (target : Word) (s : State) : Result :=
  .next ((s.setReg linkReg (linkAddress s.pc)).jumpTo target)

/-- BC pcdisp8 (R252). -/
def execBc8 (pcdisp8 : BitVec 8) (s : State) : Result := branchIf s.c pcdisp8 2 s

/-- BC pcdisp24 (R253). -/
def execBc24 (pcdisp24 : BitVec 24) (s : State) : Result := branchIf s.c pcdisp24 4 s

/-- BNC pcdisp8 (R262). -/
def execBnc8 (pcdisp8 : BitVec 8) (s : State) : Result := branchIf (!s.c) pcdisp8 2 s

/-- BNC pcdisp24 (R263). -/
def execBnc24 (pcdisp24 : BitVec 24) (s : State) : Result := branchIf (!s.c) pcdisp24 4 s

/-- BEQ Rsrc1,Rsrc2,pcdisp16 (R254). -/
def execBeq (src1 src2 : Reg) (pcdisp16 : BitVec 16) (s : State) : Result :=
  branchIf (s.reg src1 == s.reg src2) pcdisp16 4 s

/-- BNE Rsrc1,Rsrc2,pcdisp16 (R264). -/
def execBne (src1 src2 : Reg) (pcdisp16 : BitVec 16) (s : State) : Result :=
  branchIf (s.reg src1 != s.reg src2) pcdisp16 4 s

/-- BEQZ Rsrc,pcdisp16 (R255). -/
def execBeqz (src : Reg) (pcdisp16 : BitVec 16) (s : State) : Result := branchIf (s.reg src == 0) pcdisp16 4 s

/-- BNEZ Rsrc,pcdisp16 (R265). -/
def execBnez (src : Reg) (pcdisp16 : BitVec 16) (s : State) : Result := branchIf (s.reg src != 0) pcdisp16 4 s

/-- BGEZ Rsrc,pcdisp16 (R258). -/
def execBgez (src : Reg) (pcdisp16 : BitVec 16) (s : State) : Result :=
  branchIf (decide (0 ≤ (s.reg src).toInt)) pcdisp16 4 s

/-- BGTZ Rsrc,pcdisp16 (R259). -/
def execBgtz (src : Reg) (pcdisp16 : BitVec 16) (s : State) : Result :=
  branchIf (decide (0 < (s.reg src).toInt)) pcdisp16 4 s

/-- BLEZ Rsrc,pcdisp16 (R260). -/
def execBlez (src : Reg) (pcdisp16 : BitVec 16) (s : State) : Result :=
  branchIf (decide ((s.reg src).toInt ≤ 0)) pcdisp16 4 s

/-- BLTZ Rsrc,pcdisp16 (R261). -/
def execBltz (src : Reg) (pcdisp16 : BitVec 16) (s : State) : Result :=
  branchIf (decide ((s.reg src).toInt < 0)) pcdisp16 4 s

/-- BRA pcdisp8 (R268). -/
def execBra8 (pcdisp8 : BitVec 8) (s : State) : Result := .next (s.jumpTo (branchTarget s.pc pcdisp8))

/-- BRA pcdisp24 (R269). -/
def execBra24 (pcdisp24 : BitVec 24) (s : State) : Result := .next (s.jumpTo (branchTarget s.pc pcdisp24))

/-- BL pcdisp8 (R256). -/
def execBl8 (pcdisp8 : BitVec 8) (s : State) : Result := branchAndLink (branchTarget s.pc pcdisp8) s

/-- BL pcdisp24 (R257). -/
def execBl24 (pcdisp24 : BitVec 24) (s : State) : Result := branchAndLink (branchTarget s.pc pcdisp24) s

/-- JL Rsrc (R266): Rsrc is read before R14 is written (D23). -/
def execJl (src : Reg) (s : State) : Result := branchAndLink (wordAligned (s.reg src)) s

/-- JMP Rsrc (R267): the low two bits are ignored. -/
def execJmp (src : Reg) (s : State) : Result := .next (s.jumpTo (wordAligned (s.reg src)))

/-- NOP (R270), also the parallel NOP 0xF000 (30_encoding.md R113). -/
def execNop (s : State) : Result := endShort s

end Sys2Proof.Machine
end

