-- ==== Sys2Proof/Machine/Dsp.lean ====
section
/-! DEFINITION. The DSP function instructions (45_dsp.md): exact integer products, stored modulo 2^56 (R306). -/

namespace Sys2Proof.Machine

/-- End a 16-bit instruction that writes the accumulator (R290). -/
def accShort (v : Int) (s : State) : Result := endShort (s.setAccInt v)

/-- MACHI Rsrc1,Rsrc2 (R291): the product lies at bit 16 of the addend. -/
def execMachi (src1 src2 : Reg) (s : State) : Result :=
  accShort (s.acc64.toInt + signedHigh (s.reg src1) * signedHigh (s.reg src2) * 65536) s

/-- MACLO Rsrc1,Rsrc2 (R292). -/
def execMaclo (src1 src2 : Reg) (s : State) : Result :=
  accShort (s.acc64.toInt + signedLow (s.reg src1) * signedLow (s.reg src2) * 65536) s

/-- MACWHI Rsrc1,Rsrc2 (R293). -/
def execMacwhi (src1 src2 : Reg) (s : State) : Result :=
  accShort (s.acc64.toInt + (s.reg src1).toInt * signedHigh (s.reg src2)) s

/-- MACWLO Rsrc1,Rsrc2 (R294). -/
def execMacwlo (src1 src2 : Reg) (s : State) : Result :=
  accShort (s.acc64.toInt + (s.reg src1).toInt * signedLow (s.reg src2)) s

/-- MULHI Rsrc1,Rsrc2 (R295). -/
def execMulhi (src1 src2 : Reg) (s : State) : Result :=
  accShort (signedHigh (s.reg src1) * signedHigh (s.reg src2) * 65536) s

/-- MULLO Rsrc1,Rsrc2 (R296). -/
def execMullo (src1 src2 : Reg) (s : State) : Result :=
  accShort (signedLow (s.reg src1) * signedLow (s.reg src2) * 65536) s

/-- MULWHI Rsrc1,Rsrc2 (R297). -/
def execMulwhi (src1 src2 : Reg) (s : State) : Result :=
  accShort ((s.reg src1).toInt * signedHigh (s.reg src2)) s

/-- MULWLO Rsrc1,Rsrc2 (R298). -/
def execMulwlo (src1 src2 : Reg) (s : State) : Result :=
  accShort ((s.reg src1).toInt * signedLow (s.reg src2)) s

/-- MVFACHI Rdest (R299): bits 63:32 of the 64-bit view. -/
def execMvfachi (dest : Reg) (s : State) : Result := endShort (s.setReg dest (s.acc64.extractLsb' 32 32))

/-- MVFACLO Rdest (R300): bits 31:0. -/
def execMvfaclo (dest : Reg) (s : State) : Result := endShort (s.setReg dest (s.acc64.extractLsb' 0 32))

/-- MVFACMI Rdest (R301): bits 47:16. -/
def execMvfacmi (dest : Reg) (s : State) : Result := endShort (s.setReg dest (s.acc64.extractLsb' 16 32))

/-- MVTACHI Rsrc (R302): the low 24 bits of Rsrc become bits 55:32. -/
def execMvtachi (src : Reg) (s : State) : Result :=
  endShort { s with acc := (s.reg src).extractLsb' 0 24 ++ s.acc.extractLsb' 0 32 }

/-- MVTACLO Rsrc (R303): Rsrc becomes bits 31:0. -/
def execMvtaclo (src : Reg) (s : State) : Result :=
  endShort { s with acc := s.acc.extractLsb' 32 24 ++ s.reg src }

/-- The rounding of RAC and RACH on the accumulator's value (R304, R305): shift left by one, add half of the unit, clip
to the signed range, else clear what lies below the unit. -/
def roundAcc (unit limit acc : Int) : Int :=
  let tmp := acc * 2 + unit / 2
  if limit < tmp then limit else if tmp < -0x0000800000000000 then -0x0000800000000000 else tmp - tmp % unit

/-- RAC (R304): to a word; the unit is 2^16, the limit 0x00007FFFFFFF0000. -/
def execRac (s : State) : Result := accShort (roundAcc 0x10000 0x00007FFFFFFF0000 s.acc64.toInt) s

/-- RACH (R305): to a halfword; the unit is 2^32, the limit 0x00007FFF00000000. -/
def execRach (s : State) : Result := accShort (roundAcc 0x100000000 0x00007FFF00000000 s.acc64.toInt) s

end Sys2Proof.Machine
end

