-- ==== Sys2Proof/Machine/Eit.lean ====
section
/-! DEFINITION. The EIT instructions (44_eit_instructions.md), over the shared entry and return of Ops. -/

namespace Sys2Proof.Machine

/-- TRAP #imm4 (R281): the entry sequence with BPC = PC + 4, taken literally (60_exceptions.md R423). -/
def execTrap (imm4 : Fin 16) (s : State) : Result := .next (s.takeEit (.trap imm4) (s.pc + 4))

/-- RTE (R282); refused where an earlier RTE left what it uses undefined (U2). -/
def execRte (s : State) : Result :=
  if s.returnDefined then .next s.returnFromEit else .refused .undefinedReturnState

end Sys2Proof.Machine
end

