-- ==== Sys2Proof/Machine/Float.lean ====
section
/-! DEFINITION. What the twelve FPU instructions share (46_float_common.md): the format, rounding, the six exceptions,
the operand-class rules and the FPSR update. Values are exact rationals; a result is narrowed once, in `deliver`. -/

namespace Sys2Proof.Machine

-- ## The number format (R321, R322)

/-- The classes of a single-precision word (R322). -/
inductive FpClass where
  | zero
  | denormal
  | normal
  | inf
  | qnan
  | snan
  deriving DecidableEq, Repr

/-- s(w), true for negative (R321). -/
def fpSign (w : Word) : Bool := w.getLsbD 31

/-- e(w), the biased exponent (R321). -/
def fpExponent (w : Word) : Nat := (w.extractLsb' 23 8).toNat

/-- f(w), the fraction (R321). -/
def fpFraction (w : Word) : Nat := (w.extractLsb' 0 23).toNat

/-- class(w) (R322). -/
def fpClass (w : Word) : FpClass :=
  if fpExponent w = 0 then (if fpFraction w = 0 then .zero else .denormal)
  else if fpExponent w = 255 then
    (if fpFraction w = 0 then .inf else if w.getLsbD 22 then .qnan else .snan)
  else .normal

/-- The word is a NaN of either kind. -/
def fpIsNan (w : Word) : Bool := fpClass w == .qnan || fpClass w == .snan

/-- 2 to an integer power. -/
def twoPow : Int → ℚ
  | .ofNat n => mkRat (2 ^ n) 1
  | .negSucc n => mkRat 1 (2 ^ (n + 1))

/-- The magnitude of a finite word (R322). -/
def fpMagnitude (w : Word) : ℚ :=
  if fpExponent w = 0 then mkRat (fpFraction w) 1 * twoPow (-149)
  else mkRat (2 ^ 23 + fpFraction w) 1 * twoPow (fpExponent w - 150)

/-- value(w) of a finite word (R322). -/
def fpValue (w : Word) : ℚ := if fpSign w then -fpMagnitude w else fpMagnitude w

/-- A word with only the sign bit, set for true: -0 or +0. -/
def signedZero (neg : Bool) : Word := BitVec.ofBool neg ++ 0#31

/-- Infinity of the given sign (R322). -/
def signedInf (neg : Bool) : Word := BitVec.ofBool neg ++ 0x7F800000#31

/-- The largest magnitude of the given sign, +MAX or -MAX (R322). -/
def signedMax (neg : Bool) : Word := BitVec.ofBool neg ++ 0x7F7FFFFF#31

/-- The word with its sign inverted. -/
def flipSign (w : Word) : Word := w ^^^ 0x80000000#32

/-- The QNaN of an invalid operation without a NaN operand (R333). -/
def invalidNan : Word := 0x7FFFFFFF#32

/-- quiet(w): the SNaN with the top fraction bit set (R333). -/
def quiet (w : Word) : Word := w ||| 0x00400000#32

/-- nan2(a, b), for operands of which at least one is a NaN (R333). -/
def nan2 (a b : Word) : Word :=
  if fpClass a = .snan ∧ fpClass b = .snan then quiet b
  else if fpClass a = .snan then quiet a
  else if fpClass b = .snan then quiet b
  else if fpClass b = .qnan then b
  else a

-- ## The fields of FPSR (10_state.md R40)

/-- The rounding modes (R324). -/
inductive RoundMode where
  | nearest
  | towardZero
  | towardPlus
  | towardMinus
  deriving DecidableEq, Repr

/-- FPSR.RM (R324). -/
def fpsrMode (fpsr : Word) : RoundMode :=
  match fpsr.getLsbD 1, fpsr.getLsbD 0 with
  | false, false => .nearest
  | false, true => .towardZero
  | true, false => .towardPlus
  | true, true => .towardMinus

/-- FPSR.DN: a denormalized operand counts as zero (R323). -/
def fpsrDn (fpsr : Word) : Bool := fpsr.getLsbD 8

/-- A set of the six floating-point exceptions (R327 to R332). -/
structure FpExceptions where
  uipl : Bool := false
  ixct : Bool := false
  udf : Bool := false
  div0 : Bool := false
  ovf : Bool := false
  ivld : Bool := false
  deriving DecidableEq, Repr

/-- The empty set. -/
def noExceptions : FpExceptions := {}

/-- The union of two sets. -/
def FpExceptions.union (x y : FpExceptions) : FpExceptions where
  uipl := x.uipl || y.uipl
  ixct := x.ixct || y.ixct
  udf := x.udf || y.udf
  div0 := x.div0 || y.div0
  ovf := x.ovf || y.ovf
  ivld := x.ivld || y.ivld

/-- The exceptions whose enable bit is set: EX 14, EU 13, EZ 12, EO 11, EV 10 (10_state.md R40). UIPL has none. -/
def fpsrEnables (fpsr : Word) : FpExceptions where
  ixct := fpsr.getLsbD 14
  udf := fpsr.getLsbD 13
  div0 := fpsr.getLsbD 12
  ovf := fpsr.getLsbD 11
  ivld := fpsr.getLsbD 10

/-- The set forces the EIT: UIPL always, another where its enable bit is set (R340). -/
def FpExceptions.forced (x : FpExceptions) (fpsr : Word) : Bool :=
  x.uipl || (x.ixct && (fpsrEnables fpsr).ixct) || (x.udf && (fpsrEnables fpsr).udf) ||
    (x.div0 && (fpsrEnables fpsr).div0) || (x.ovf && (fpsrEnables fpsr).ovf) ||
    (x.ivld && (fpsrEnables fpsr).ivld)

/-- The cause bits of a set: CE 7, CX 6, CU 5, CZ 4, CO 3, CV 2 (10_state.md R40). -/
def FpExceptions.causeBits (x : FpExceptions) : Word :=
  0#24 ++ BitVec.ofBool x.uipl ++ BitVec.ofBool x.ixct ++ BitVec.ofBool x.udf ++ BitVec.ofBool x.div0 ++
    BitVec.ofBool x.ovf ++ BitVec.ofBool x.ivld ++ 0#2

/-- The flag bits of a set: FX 30, FU 29, FZ 28, FO 27, FV 26; UIPL has none (10_state.md R40). -/
def FpExceptions.flagBits (x : FpExceptions) : Word :=
  0#1 ++ BitVec.ofBool x.ixct ++ BitVec.ofBool x.udf ++ BitVec.ofBool x.div0 ++ BitVec.ofBool x.ovf ++
    BitVec.ofBool x.ivld ++ 0#26

/-- What an FPU instruction finds: the word produced, if one is, and the exceptions raised (R326). -/
structure FpResult where
  val : Option Word
  raised : FpExceptions
  deriving DecidableEq, Repr

/-- A word and no exception. -/
def exactly (v : Word) : FpResult := ⟨some v, noExceptions⟩

/-- The invalid operation with its masked result (R331). -/
def invalid (v : Word) : FpResult := ⟨some v, { ivld := true }⟩

/-- The unimplemented exception: never a result (R332). -/
def unimplemented : FpResult := ⟨none, { uipl := true }⟩

/-- eff(w): with DN = 1 a denormalized operand is the zero of its sign (R323). -/
def fpEff (fpsr w : Word) : Word :=
  if fpClass w = .denormal ∧ fpsrDn fpsr then signedZero (fpSign w) else w

/-- The operand is denormalized and DN = 0 (R332). -/
def fpUnsupported (fpsr w : Word) : Bool := fpClass w == .denormal && !fpsrDn fpsr

-- ## Rounding (R325)

/-- The integer E with 2^E ≤ a < 2^(E+1), for a positive rational (R325). -/
def binaryExponent (a : ℚ) : Int :=
  let k : Int := (a.num.natAbs.log2 : Int) - (a.den.log2 : Int)
  if a < twoPow k then k - 1 else k

/-- A non-negative rational rounded to an integer as its mode says for a value of the given sign; ties go to the even
one (R325). -/
def roundInteger (mode : RoundMode) (neg : Bool) (m : ℚ) : Nat :=
  let below := m.floor.toNat
  let above := m.ceil.toNat
  match mode with
  | .nearest =>
    let rest := m - mkRat below 1
    if rest < mkRat 1 2 then below
    else if mkRat 1 2 < rest then above
    else if below % 2 = 0 then below else above
  | .towardZero => below
  | .towardPlus => if neg then below else above
  | .towardMinus => if neg then above else below

/-- A value rounded to a 24-bit significand with an unbounded exponent: (-1)^sign * sig * 2^(exp - 23) (R325). -/
structure Rounded where
  sign : Bool
  exp : Int
  sig : Nat
  inexact : Bool
  deriving DecidableEq, Repr

/-- round24(q, mode) of a nonzero rational (R325, G7). -/
def round24 (q : ℚ) (mode : RoundMode) : Rounded :=
  let neg := decide (q < 0)
  let a := if q < 0 then -q else q
  let e := binaryExponent a
  let m := a * twoPow (23 - e)
  let r := roundInteger mode neg m
  let inexact := decide (mkRat r 1 ≠ m)
  if r = 2 ^ 24 then ⟨neg, e + 1, 2 ^ 23, inexact⟩ else ⟨neg, e, r, inexact⟩

/-- The word of a rounded value whose exponent fits (R326). -/
def Rounded.word (r : Rounded) : Word :=
  BitVec.ofBool r.sign ++ BitVec.ofInt 8 (r.exp + 127) ++ BitVec.ofNat 23 (r.sig - 2 ^ 23)

/-- ovf_value(sign, RM) (R327). -/
def ovfValue (neg : Bool) (mode : RoundMode) : Word :=
  match mode with
  | .nearest => signedInf neg
  | .towardZero => signedMax neg
  | .towardPlus => if neg then signedMax neg else signedInf neg
  | .towardMinus => if neg then signedInf neg else signedMax neg

/-- deliver(q, mode, zsign) (R326): underflow is judged on the exact value, overflow on the rounded one (D26); the
value of a masked overflow follows FPSR.RM whatever `mode` is (R327), the zero of a flushed underflow keeps the sign
(D27). -/
def deliver (fpsr : Word) (q : ℚ) (mode : RoundMode) (zsign : Bool) : FpResult :=
  if q = 0 then exactly (signedZero zsign)
  else if (if q < 0 then -q else q) < twoPow (-126) then
    if (fpsrEnables fpsr).udf then ⟨none, { udf := true }⟩
    else if fpsrDn fpsr then ⟨some (signedZero (decide (q < 0))), { udf := true }⟩
    else ⟨none, { udf := true, uipl := true }⟩
  else
    let r := round24 q mode
    if 127 < r.exp then
      if (fpsrEnables fpsr).ovf then ⟨none, { ovf := true }⟩
      else ⟨some (ovfValue r.sign (fpsrMode fpsr)), { ovf := true, ixct := true }⟩
    else ⟨some r.word, { ixct := r.inexact }⟩

-- ## The arithmetic (47_float_instructions.md R361 to R366)

/-- The classes that end an operation of two operands before any arithmetic, by priority: SNaN, QNaN, then a
denormalized operand with DN = 0 (R334, D25); none where the arithmetic is reached. -/
def screenOperands (fpsr a b : Word) : Option FpResult :=
  if fpClass a = .snan ∨ fpClass b = .snan then some (invalid (nan2 a b))
  else if fpClass a = .qnan ∨ fpClass b = .qnan then some (exactly (nan2 a b))
  else if fpUnsupported fpsr a || fpUnsupported fpsr b then some unimplemented
  else none

/-- add_arith(a, b, mode), for operands that are normalized, zero or infinite (R361). -/
def addArith (fpsr a b : Word) (mode : RoundMode) : FpResult :=
  let zsign := fpsrMode fpsr == .towardMinus
  if fpClass a = .inf ∧ fpClass b = .inf then
    if fpSign a = fpSign b then exactly a else invalid invalidNan
  else if fpClass a = .inf then exactly a
  else if fpClass b = .inf then exactly b
  else if fpClass a = .zero ∧ fpClass b = .zero then
    if fpSign a = fpSign b then exactly a else exactly (signedZero zsign)
  else deliver fpsr (fpValue a + fpValue b) mode zsign

/-- add_core(a, b, mode, negate_b) (R361): the sign of b is inverted after the NaN screening (R362). -/
def addCore (fpsr a b : Word) (mode : RoundMode) (negate : Bool) : FpResult :=
  match screenOperands fpsr a b with
  | some r => r
  | none =>
    let b' := fpEff fpsr b
    addArith fpsr (fpEff fpsr a) (if negate then flipSign b' else b') mode

/-- The arithmetic of mul_core, after the screening (R363). -/
def mulArith (fpsr a b : Word) (mode : RoundMode) : FpResult :=
  let neg := fpSign a ^^ fpSign b
  if (fpClass a = .zero ∧ fpClass b = .inf) ∨ (fpClass a = .inf ∧ fpClass b = .zero) then invalid invalidNan
  else if fpClass a = .inf ∨ fpClass b = .inf then exactly (signedInf neg)
  else if fpClass a = .zero ∨ fpClass b = .zero then exactly (signedZero neg)
  else deliver fpsr (fpValue a * fpValue b) mode neg

/-- mul_core(a, b, mode) (R363). -/
def mulCore (fpsr a b : Word) (mode : RoundMode) : FpResult :=
  match screenOperands fpsr a b with
  | some r => r
  | none => mulArith fpsr (fpEff fpsr a) (fpEff fpsr b) mode

/-- The arithmetic of div_core, after the screening (R364, R330). -/
def divArith (fpsr a b : Word) (mode : RoundMode) : FpResult :=
  let neg := fpSign a ^^ fpSign b
  if (fpClass a = .zero ∧ fpClass b = .zero) ∨ (fpClass a = .inf ∧ fpClass b = .inf) then invalid invalidNan
  else if fpClass a = .inf then exactly (signedInf neg)
  else if fpClass b = .inf ∨ fpClass a = .zero then exactly (signedZero neg)
  else if fpClass b = .zero then ⟨some (signedInf neg), { div0 := true }⟩
  else deliver fpsr (fpValue a / fpValue b) mode neg

/-- div_core(a, b, mode) (R364). -/
def divCore (fpsr a b : Word) (mode : RoundMode) : FpResult :=
  match screenOperands fpsr a b with
  | some r => r
  | none => divArith fpsr (fpEff fpsr a) (fpEff fpsr b) mode

/-- The exceptions that the old Rdest adds where step 1 already forces the EIT (R365, R349). -/
def addendExceptions (fpsr d : Word) : FpExceptions :=
  if fpClass d = .snan then { ivld := true }
  else if fpUnsupported fpsr d then { uipl := true }
  else noExceptions

/-- Step 2 of madd_core on the product `p`, step 1 having raised `r1` (R365); with `subtract` the sign of the product
is inverted, also that of an OVF immediate (R366, D29). -/
def maddStep2 (fpsr d p : Word) (r1 : FpExceptions) (subtract : Bool) : FpResult :=
  if fpClass d = .snan then ⟨some (quiet d), r1.union { ivld := true }⟩
  else if fpClass d = .qnan then ⟨some d, r1⟩
  else if fpClass p = .qnan then ⟨some p, r1⟩
  else if fpUnsupported fpsr d then ⟨none, r1.union { uipl := true }⟩
  else
    let d' := fpEff fpsr d
    let p' := if subtract then flipSign p else p
    if r1.ovf ∧ (fpClass d' = .normal ∨ fpClass d' = .zero) then ⟨some p', r1⟩
    else
      let r2 := addArith fpsr d' p' (fpsrMode fpsr)
      ⟨r2.val, r1.union r2.raised⟩

/-- madd_core(d, a, b, subtract) (R365): the product is rounded toward 0 whatever RM is; both steps' exceptions are
raised (D25). -/
def maddCore (fpsr d a b : Word) (subtract : Bool) : FpResult :=
  let step1 := mulCore fpsr a b .towardZero
  match step1.val, step1.raised.forced fpsr with
  | some p, false => maddStep2 fpsr d p step1.raised subtract
  | _, _ => ⟨none, step1.raised.union (addendExceptions fpsr d)⟩

-- ## Conversions (47_float_instructions.md R367 to R370)

/-- ITOF and UTOF on the integer's value (R367, R368). -/
def floatOfInteger (fpsr : Word) (n : Int) : FpResult :=
  if n = 0 then exactly 0x00000000#32
  else
    let r := round24 (mkRat n 1) (fpsrMode fpsr)
    ⟨some r.word, { ixct := r.inexact }⟩

/-- The integer part of a rational, toward 0 (R369). -/
def truncate (q : ℚ) : Int := if q < 0 then -(-q).floor else q.floor

/-- FTOI and FTOS (R369, R370): to the signed range of `-limit` to `limit - 1`, tested after truncation; out of it, and
for NaN and infinity, the invalid operation with the end of the range that the sign selects. -/
def integerOfFloat (fpsr w : Word) (limit : Int) : FpResult :=
  let saturated := BitVec.ofInt 32 (if fpSign w then -limit else limit - 1)
  match fpClass w with
  | .qnan | .snan | .inf => invalid saturated
  | .denormal => if fpsrDn fpsr then exactly 0x00000000#32 else unimplemented
  | .zero => exactly 0x00000000#32
  | .normal =>
    let t := truncate (fpValue w)
    if limit - 1 < t ∨ t < -limit then invalid saturated
    else ⟨some (BitVec.ofInt 32 t), { ixct := decide (mkRat t 1 ≠ fpValue w) }⟩

-- ## Comparisons (47_float_instructions.md R371, R372)

/-- The outcome of a comparison (R371). -/
inductive FcmpKind where
  | equal
  | less
  | greater
  | unordered
  deriving DecidableEq, Repr

/-- Comparing operands that are finite or infinite, in the order of R371. -/
def fpCompare (a b : Word) : FcmpKind :=
  if fpClass a = .inf ∧ fpClass b = .inf then
    if fpSign a = fpSign b then .equal else if fpSign a then .less else .greater
  else if fpClass a = .inf then (if fpSign a then .less else .greater)
  else if fpClass b = .inf then (if fpSign b then .greater else .less)
  else if fpValue a = fpValue b then .equal
  else if fpValue a < fpValue b then .less
  else .greater

/-- FCMP_RESULT(kind) (R371, D28): the free word brought into the set the kind has; only equal is one word. -/
def fcmpWord (kind : FcmpKind) (free : Word) : Word :=
  match kind with
  | .equal => 0x00000000#32
  | .less => 1#1 ++ free.extractLsb' 0 31
  | .unordered => 0x1FF#10 ++ free.extractLsb' 0 22
  | .greater =>
    let low := free.extractLsb' 0 31
    if low = 0 ∨ low.extractLsb' 22 9 = 0x1FF#9 then 0x00000001#32 else 0#1 ++ low

/-- FCMP, and with `quietInvalid` FCMPE, where a QNaN operand raises IVLD too (R371, R372). -/
def compareCore (fpsr a b : Word) (quietInvalid : Bool) (free : Word) : FpResult :=
  if fpClass a = .snan ∨ fpClass b = .snan then invalid (fcmpWord .unordered free)
  else if fpClass a = .qnan ∨ fpClass b = .qnan then
    if quietInvalid then invalid (fcmpWord .unordered free) else exactly (fcmpWord .unordered free)
  else if fpUnsupported fpsr a || fpUnsupported fpsr b then unimplemented
  else exactly (fcmpWord (fpCompare (fpEff fpsr a) (fpEff fpsr b)) free)

-- ## The execution frame (R340)

/-- FPSR with the cause bits of this instruction in place of the old ones (R344). -/
def fpsrWithCauses (fpsr : Word) (raised : FpExceptions) : Word :=
  (fpsr &&& ~~~ fpsrCauseMask) ||| raised.causeBits

/-- End an FPU instruction (R340): the cause bits describe it alone; where the exceptions force the EIT, or no word was
produced, the FPE is taken with BPC the address after the instruction (60_exceptions.md R422) and Rdest and the flags
keep their values (R345); else the flags are set and Rdest takes the word. -/
def completeFp (dest : Reg) (r : FpResult) (s : State) : Result :=
  let t : State := { s with fpsr := fpsrWithCauses s.fpsr r.raised }
  match r.val, r.raised.forced s.fpsr with
  | some v, false => endLong ({ t with fpsr := t.fpsr ||| r.raised.flagBits }.setReg dest v)
  | _, _ => .next (t.takeEit .fpe (s.pc + 4))

end Sys2Proof.Machine
end

