-- ==== Sys2Proof/Machine/FloatInstr.lean ====
section
/-! DEFINITION. The twelve floating-point instructions (47_float_instructions.md), over the common rules of Float. Each
reads its sources, then ends in `completeFp`. -/

namespace Sys2Proof.Machine

/-- FADD Rdest,Rsrc1,Rsrc2 (R361). -/
def execFadd (dest src1 src2 : Reg) (s : State) : Result :=
  completeFp dest (addCore s.fpsr (s.reg src1) (s.reg src2) (fpsrMode s.fpsr) false) s

/-- FSUB Rdest,Rsrc1,Rsrc2 (R362). -/
def execFsub (dest src1 src2 : Reg) (s : State) : Result :=
  completeFp dest (addCore s.fpsr (s.reg src1) (s.reg src2) (fpsrMode s.fpsr) true) s

/-- FMUL Rdest,Rsrc1,Rsrc2 (R363). -/
def execFmul (dest src1 src2 : Reg) (s : State) : Result :=
  completeFp dest (mulCore s.fpsr (s.reg src1) (s.reg src2) (fpsrMode s.fpsr)) s

/-- FDIV Rdest,Rsrc1,Rsrc2 (R364). -/
def execFdiv (dest src1 src2 : Reg) (s : State) : Result :=
  completeFp dest (divCore s.fpsr (s.reg src1) (s.reg src2) (fpsrMode s.fpsr)) s

/-- FMADD Rdest,Rsrc1,Rsrc2 (R365): Rdest is the addend too. -/
def execFmadd (dest src1 src2 : Reg) (s : State) : Result :=
  completeFp dest (maddCore s.fpsr (s.reg dest) (s.reg src1) (s.reg src2) false) s

/-- FMSUB Rdest,Rsrc1,Rsrc2 (R366). -/
def execFmsub (dest src1 src2 : Reg) (s : State) : Result :=
  completeFp dest (maddCore s.fpsr (s.reg dest) (s.reg src1) (s.reg src2) true) s

/-- ITOF Rdest,Rsrc (R367). -/
def execItof (dest src : Reg) (s : State) : Result :=
  completeFp dest (floatOfInteger s.fpsr (s.reg src).toInt) s

/-- UTOF Rdest,Rsrc (R368). -/
def execUtof (dest src : Reg) (s : State) : Result :=
  completeFp dest (floatOfInteger s.fpsr (s.reg src).toNat) s

/-- FTOI Rdest,Rsrc (R369). -/
def execFtoi (dest src : Reg) (s : State) : Result :=
  completeFp dest (integerOfFloat s.fpsr (s.reg src) (2 ^ 31)) s

/-- FTOS Rdest,Rsrc (R370). -/
def execFtos (dest src : Reg) (s : State) : Result :=
  completeFp dest (integerOfFloat s.fpsr (s.reg src) (2 ^ 15)) s

/-- FCMP Rdest,Rsrc1,Rsrc2 (R371): a free value is drawn for the result's open bits. -/
def execFcmp (dest src1 src2 : Reg) (s : State) : Result :=
  completeFp dest (compareCore s.fpsr (s.reg src1) (s.reg src2) false (Config.fcmpBits s.draws))
    { s with draws := s.draws + 1 }

/-- FCMPE Rdest,Rsrc1,Rsrc2 (R372): a free value is drawn for the result's open bits. -/
def execFcmpe (dest src1 src2 : Reg) (s : State) : Result :=
  completeFp dest (compareCore s.fpsr (s.reg src1) (s.reg src2) true (Config.fcmpBits s.draws))
    { s with draws := s.draws + 1 }

end Sys2Proof.Machine
end

