-- ==== Sys2Proof/Machine/LoadStore.lean ====
section
/-! DEFINITION. The load and store instructions (40_load_store.md). A misaligned halfword or word access takes the
address exception with nothing else done (R150). -/

namespace Sys2Proof.Machine

/-- A load into `dest`: the value is read at `ea`, the instruction has `len` bytes (R150). -/
def loadFrom (w : AccessWidth) (dest : Reg) (ea value len : Word) (s : State) : Result :=
  accessOrAe w ea s ((s.setReg dest value).advance len)

/-- The word at `ea` (R84). -/
def loadWordAt (dest : Reg) (ea len : Word) (s : State) : Result := loadFrom .word dest ea (s.readWord ea) len s

/-- The sign-extended byte at `ea` (R83). -/
def loadSignedByteAt (dest : Reg) (ea len : Word) (s : State) : Result :=
  loadFrom .byte dest ea (signedField (s.readByte ea)) len s

/-- The zero-extended byte at `ea` (R83). -/
def loadUnsignedByteAt (dest : Reg) (ea len : Word) (s : State) : Result :=
  loadFrom .byte dest ea (unsignedField (s.readByte ea)) len s

/-- The sign-extended halfword at `ea` (R83). -/
def loadSignedHalfAt (dest : Reg) (ea len : Word) (s : State) : Result :=
  loadFrom .half dest ea (signedField (s.readHalf ea)) len s

/-- The zero-extended halfword at `ea` (R83). -/
def loadUnsignedHalfAt (dest : Reg) (ea len : Word) (s : State) : Result :=
  loadFrom .half dest ea (unsignedField (s.readHalf ea)) len s

/-- A store of a whole register (R83). -/
def storeWordAt (src : Reg) (ea len : Word) (s : State) : Result :=
  accessOrAe .word ea s ((s.writeWord ea (s.reg src)).advance len)

/-- A store of the low halfword of a register (R83). -/
def storeHalfAt (src : Reg) (ea len : Word) (s : State) : Result :=
  accessOrAe .half ea s ((s.writeHalf ea ((s.reg src).extractLsb' 0 16)).advance len)

/-- A store of the low byte of a register (R83). -/
def storeByteAt (src : Reg) (ea len : Word) (s : State) : Result :=
  accessOrAe .byte ea s ((s.writeByte ea ((s.reg src).extractLsb' 0 8)).advance len)

/-- LD Rdest,@Rsrc (R151). -/
def execLd (dest src : Reg) (s : State) : Result := loadWordAt dest (s.eaIndirect src) 2 s

/-- LD Rdest,@Rsrc+ (R152): the base goes up by 4 after the access. Equal fields are refused (R173). -/
def execLdPostInc (dest src : Reg) (s : State) : Result :=
  let ea := s.eaIndirect src
  if dest = src then .refused .overlappingRegisters
  else accessOrAe .word ea s (((s.setReg dest (s.readWord ea)).setReg src (ea + 4)).advance 2)

/-- LD Rdest,@(disp16,Rsrc) (R153). -/
def execLdDisp (dest : Reg) (disp16 : BitVec 16) (src : Reg) (s : State) : Result :=
  loadWordAt dest (s.eaDisplaced disp16 src) 4 s

/-- LDB Rdest,@Rsrc (R154). -/
def execLdb (dest src : Reg) (s : State) : Result := loadSignedByteAt dest (s.eaIndirect src) 2 s

/-- LDB Rdest,@(disp16,Rsrc) (R155). -/
def execLdbDisp (dest : Reg) (disp16 : BitVec 16) (src : Reg) (s : State) : Result :=
  loadSignedByteAt dest (s.eaDisplaced disp16 src) 4 s

/-- LDUB Rdest,@Rsrc (R156). -/
def execLdub (dest src : Reg) (s : State) : Result := loadUnsignedByteAt dest (s.eaIndirect src) 2 s

/-- LDUB Rdest,@(disp16,Rsrc) (R157). -/
def execLdubDisp (dest : Reg) (disp16 : BitVec 16) (src : Reg) (s : State) : Result :=
  loadUnsignedByteAt dest (s.eaDisplaced disp16 src) 4 s

/-- LDH Rdest,@Rsrc (R158). -/
def execLdh (dest src : Reg) (s : State) : Result := loadSignedHalfAt dest (s.eaIndirect src) 2 s

/-- LDH Rdest,@(disp16,Rsrc) (R159). -/
def execLdhDisp (dest : Reg) (disp16 : BitVec 16) (src : Reg) (s : State) : Result :=
  loadSignedHalfAt dest (s.eaDisplaced disp16 src) 4 s

/-- LDUH Rdest,@Rsrc (R161). -/
def execLduh (dest src : Reg) (s : State) : Result := loadUnsignedHalfAt dest (s.eaIndirect src) 2 s

/-- LDUH Rdest,@(disp16,Rsrc) (R162). -/
def execLduhDisp (dest : Reg) (disp16 : BitVec 16) (src : Reg) (s : State) : Result :=
  loadUnsignedHalfAt dest (s.eaDisplaced disp16 src) 4 s

/-- LOCK Rdest,@Rsrc (R160): a word load that also sets the LOCK bit. -/
def execLock (dest src : Reg) (s : State) : Result :=
  let ea := s.eaIndirect src
  accessOrAe .word ea s (({ s with lockBit := true }.setReg dest (s.readWord ea)).advance 2)

/-- ST Rsrc1,@Rsrc2 (R163). -/
def execSt (src1 src2 : Reg) (s : State) : Result := storeWordAt src1 (s.eaIndirect src2) 2 s

/-- ST Rsrc1,@+Rsrc2 (R164): the access is at the base plus 4, which the base becomes. Equal fields are refused
(R173). -/
def execStPreInc (src1 src2 : Reg) (s : State) : Result :=
  let ea := s.eaPreIncrement src2
  if src1 = src2 then .refused .overlappingRegisters
  else accessOrAe .word ea s (((s.writeWord ea (s.reg src1)).setReg src2 ea).advance 2)

/-- ST Rsrc1,@-Rsrc2 (R165): the access is at the base minus 4, which the base becomes. Equal fields are refused
(R173). -/
def execStPreDec (src1 src2 : Reg) (s : State) : Result :=
  let ea := s.eaPreDecrement src2
  if src1 = src2 then .refused .overlappingRegisters
  else accessOrAe .word ea s (((s.writeWord ea (s.reg src1)).setReg src2 ea).advance 2)

/-- ST Rsrc1,@(disp16,Rsrc2) (R166). -/
def execStDisp (src1 : Reg) (disp16 : BitVec 16) (src2 : Reg) (s : State) : Result :=
  storeWordAt src1 (s.eaDisplaced disp16 src2) 4 s

/-- STB Rsrc1,@Rsrc2 (R167). -/
def execStb (src1 src2 : Reg) (s : State) : Result := storeByteAt src1 (s.eaIndirect src2) 2 s

/-- STB Rsrc1,@(disp16,Rsrc2) (R168). -/
def execStbDisp (src1 : Reg) (disp16 : BitVec 16) (src2 : Reg) (s : State) : Result :=
  storeByteAt src1 (s.eaDisplaced disp16 src2) 4 s

/-- STH Rsrc1,@Rsrc2 (R169). -/
def execSth (src1 src2 : Reg) (s : State) : Result := storeHalfAt src1 (s.eaIndirect src2) 2 s

/-- STH Rsrc1,@Rsrc2+ (R170): the base goes up by 2 after the access; with equal fields the old value is stored. -/
def execSthPostInc (src1 src2 : Reg) (s : State) : Result :=
  let ea := s.eaIndirect src2
  accessOrAe .half ea s
    (((s.writeHalf ea ((s.reg src1).extractLsb' 0 16)).setReg src2 (ea + 2)).advance 2)

/-- STH Rsrc1,@(disp16,Rsrc2) (R172). -/
def execSthDisp (src1 : Reg) (disp16 : BitVec 16) (src2 : Reg) (s : State) : Result :=
  storeHalfAt src1 (s.eaDisplaced disp16 src2) 4 s

/-- UNLOCK Rsrc1,@Rsrc2 (R171): stores only while the LOCK bit is 1, and clears it. The alignment is checked only when
the store is made (R87, D15). -/
def execUnlock (src1 src2 : Reg) (s : State) : Result :=
  let ea := s.eaIndirect src2
  if s.lockBit then
    accessOrAe .word ea s ({ s.writeWord ea (s.reg src1) with lockBit := false }.advance 2)
  else .next ({ s with lockBit := false }.advance 2)

end Sys2Proof.Machine
end

