-- ==== Sys2Proof/Machine/Transfer.lean ====
section
/-! DEFINITION. The transfer instructions (41_transfer.md). -/

namespace Sys2Proof.Machine

/-- LD24 Rdest,#imm24 (R181): zero-extended. -/
def execLd24 (dest : Reg) (imm24 : BitVec 24) (s : State) : Result :=
  endLong (s.setReg dest (unsignedField imm24))

/-- LDI Rdest,#imm8 (R182): sign-extended. -/
def execLdi8 (dest : Reg) (imm8 : BitVec 8) (s : State) : Result :=
  endShort (s.setReg dest (signedField imm8))

/-- LDI Rdest,#imm16 (R183): sign-extended. -/
def execLdi16 (dest : Reg) (imm16 : BitVec 16) (s : State) : Result :=
  endLong (s.setReg dest (signedField imm16))

/-- SETH Rdest,#imm16 (R187): the low half becomes 0. -/
def execSeth (dest : Reg) (imm16 : BitVec 16) (s : State) : Result :=
  endLong (s.setReg dest (highHalf imm16))

/-- MV Rdest,Rsrc (R186). -/
def execMv (dest src : Reg) (s : State) : Result := endShort (s.setReg dest (s.reg src))

/-- MVFC Rdest,CRsrc (R184); a number that names no control register is refused (U3). -/
def execMvfc (dest : Reg) (crsrc : CtrlNum) (s : State) : Result :=
  match s.readCtrl crsrc with
  | some v => endShort (s.setReg dest v)
  | none => .refused .undefinedControlRegister

/-- MVTC Rsrc,CRdest (R185): the source is read before any bank switch; a number that names no control register is
refused (U3). -/
def execMvtc (src : Reg) (crdest : CtrlNum) (s : State) : Result :=
  match s.writeCtrl crdest (s.reg src) with
  | some t => endShort t
  | none => .refused .undefinedControlRegister

end Sys2Proof.Machine
end

