-- ==== Sys2Proof/Machine/Dispatch.lean ====
section
/-! DEFINITION. What each instruction does: one arm per constructor of Instr, one call of its meaning. -/

namespace Sys2Proof.Machine

/-- The meaning of every instruction. -/
def exec (i : Instr) (s : State) : Host.Outcome State Fault Refusal :=
  match i with
  | .ld dest src => Sys2Proof.Machine.execLd dest src s
  | .ldPostInc dest src => Sys2Proof.Machine.execLdPostInc dest src s
  | .ldDisp dest disp16 src => Sys2Proof.Machine.execLdDisp dest disp16 src s
  | .ldb dest src => Sys2Proof.Machine.execLdb dest src s
  | .ldbDisp dest disp16 src => Sys2Proof.Machine.execLdbDisp dest disp16 src s
  | .ldub dest src => Sys2Proof.Machine.execLdub dest src s
  | .ldubDisp dest disp16 src => Sys2Proof.Machine.execLdubDisp dest disp16 src s
  | .ldh dest src => Sys2Proof.Machine.execLdh dest src s
  | .ldhDisp dest disp16 src => Sys2Proof.Machine.execLdhDisp dest disp16 src s
  | .lduh dest src => Sys2Proof.Machine.execLduh dest src s
  | .lduhDisp dest disp16 src => Sys2Proof.Machine.execLduhDisp dest disp16 src s
  | .lock dest src => Sys2Proof.Machine.execLock dest src s
  | .st src1 src2 => Sys2Proof.Machine.execSt src1 src2 s
  | .stPreInc src1 src2 => Sys2Proof.Machine.execStPreInc src1 src2 s
  | .stPreDec src1 src2 => Sys2Proof.Machine.execStPreDec src1 src2 s
  | .stDisp src1 disp16 src2 => Sys2Proof.Machine.execStDisp src1 disp16 src2 s
  | .stb src1 src2 => Sys2Proof.Machine.execStb src1 src2 s
  | .stbDisp src1 disp16 src2 => Sys2Proof.Machine.execStbDisp src1 disp16 src2 s
  | .sth src1 src2 => Sys2Proof.Machine.execSth src1 src2 s
  | .sthPostInc src1 src2 => Sys2Proof.Machine.execSthPostInc src1 src2 s
  | .sthDisp src1 disp16 src2 => Sys2Proof.Machine.execSthDisp src1 disp16 src2 s
  | .unlock src1 src2 => Sys2Proof.Machine.execUnlock src1 src2 s
  | .ld24 dest imm24 => Sys2Proof.Machine.execLd24 dest imm24 s
  | .ldi8 dest imm8 => Sys2Proof.Machine.execLdi8 dest imm8 s
  | .ldi16 dest imm16 => Sys2Proof.Machine.execLdi16 dest imm16 s
  | .seth dest imm16 => Sys2Proof.Machine.execSeth dest imm16 s
  | .mv dest src => Sys2Proof.Machine.execMv dest src s
  | .mvfc dest crsrc => Sys2Proof.Machine.execMvfc dest crsrc s
  | .mvtc src crdest => Sys2Proof.Machine.execMvtc src crdest s
  | .cmp src1 src2 => Sys2Proof.Machine.execCmp src1 src2 s
  | .cmpi src imm16 => Sys2Proof.Machine.execCmpi src imm16 s
  | .cmpu src1 src2 => Sys2Proof.Machine.execCmpu src1 src2 s
  | .cmpui src imm16 => Sys2Proof.Machine.execCmpui src imm16 s
  | .add dest src => Sys2Proof.Machine.execAdd dest src s
  | .add3 dest src imm16 => Sys2Proof.Machine.execAdd3 dest src imm16 s
  | .addi dest imm8 => Sys2Proof.Machine.execAddi dest imm8 s
  | .addv dest src => Sys2Proof.Machine.execAddv dest src s
  | .addv3 dest src imm16 => Sys2Proof.Machine.execAddv3 dest src imm16 s
  | .addx dest src => Sys2Proof.Machine.execAddx dest src s
  | .neg dest src => Sys2Proof.Machine.execNeg dest src s
  | .sub dest src => Sys2Proof.Machine.execSub dest src s
  | .subv dest src => Sys2Proof.Machine.execSubv dest src s
  | .subx dest src => Sys2Proof.Machine.execSubx dest src s
  | .and dest src => Sys2Proof.Machine.execAnd dest src s
  | .and3 dest src imm16 => Sys2Proof.Machine.execAnd3 dest src imm16 s
  | .not dest src => Sys2Proof.Machine.execNot dest src s
  | .or dest src => Sys2Proof.Machine.execOr dest src s
  | .or3 dest src imm16 => Sys2Proof.Machine.execOr3 dest src imm16 s
  | .xor dest src => Sys2Proof.Machine.execXor dest src s
  | .xor3 dest src imm16 => Sys2Proof.Machine.execXor3 dest src imm16 s
  | .mul dest src => Sys2Proof.Machine.execMul dest src s
  | .div dest src => Sys2Proof.Machine.execDiv dest src s
  | .divu dest src => Sys2Proof.Machine.execDivu dest src s
  | .rem dest src => Sys2Proof.Machine.execRem dest src s
  | .remu dest src => Sys2Proof.Machine.execRemu dest src s
  | .sll dest src => Sys2Proof.Machine.execSll dest src s
  | .sll3 dest src imm16 => Sys2Proof.Machine.execSll3 dest src imm16 s
  | .slli dest imm5 => Sys2Proof.Machine.execSlli dest imm5 s
  | .sra dest src => Sys2Proof.Machine.execSra dest src s
  | .sra3 dest src imm16 => Sys2Proof.Machine.execSra3 dest src imm16 s
  | .srai dest imm5 => Sys2Proof.Machine.execSrai dest imm5 s
  | .srl dest src => Sys2Proof.Machine.execSrl dest src s
  | .srl3 dest src imm16 => Sys2Proof.Machine.execSrl3 dest src imm16 s
  | .srli dest imm5 => Sys2Proof.Machine.execSrli dest imm5 s
  | .bc8 pcdisp8 => Sys2Proof.Machine.execBc8 pcdisp8 s
  | .bc24 pcdisp24 => Sys2Proof.Machine.execBc24 pcdisp24 s
  | .bnc8 pcdisp8 => Sys2Proof.Machine.execBnc8 pcdisp8 s
  | .bnc24 pcdisp24 => Sys2Proof.Machine.execBnc24 pcdisp24 s
  | .beq src1 src2 pcdisp16 => Sys2Proof.Machine.execBeq src1 src2 pcdisp16 s
  | .bne src1 src2 pcdisp16 => Sys2Proof.Machine.execBne src1 src2 pcdisp16 s
  | .beqz src pcdisp16 => Sys2Proof.Machine.execBeqz src pcdisp16 s
  | .bnez src pcdisp16 => Sys2Proof.Machine.execBnez src pcdisp16 s
  | .bgez src pcdisp16 => Sys2Proof.Machine.execBgez src pcdisp16 s
  | .bgtz src pcdisp16 => Sys2Proof.Machine.execBgtz src pcdisp16 s
  | .blez src pcdisp16 => Sys2Proof.Machine.execBlez src pcdisp16 s
  | .bltz src pcdisp16 => Sys2Proof.Machine.execBltz src pcdisp16 s
  | .bra8 pcdisp8 => Sys2Proof.Machine.execBra8 pcdisp8 s
  | .bra24 pcdisp24 => Sys2Proof.Machine.execBra24 pcdisp24 s
  | .bl8 pcdisp8 => Sys2Proof.Machine.execBl8 pcdisp8 s
  | .bl24 pcdisp24 => Sys2Proof.Machine.execBl24 pcdisp24 s
  | .jl src => Sys2Proof.Machine.execJl src s
  | .jmp src => Sys2Proof.Machine.execJmp src s
  | .nop => Sys2Proof.Machine.execNop s
  | .trap imm4 => Sys2Proof.Machine.execTrap imm4 s
  | .rte => Sys2Proof.Machine.execRte s
  | .machi src1 src2 => Sys2Proof.Machine.execMachi src1 src2 s
  | .maclo src1 src2 => Sys2Proof.Machine.execMaclo src1 src2 s
  | .macwhi src1 src2 => Sys2Proof.Machine.execMacwhi src1 src2 s
  | .macwlo src1 src2 => Sys2Proof.Machine.execMacwlo src1 src2 s
  | .mulhi src1 src2 => Sys2Proof.Machine.execMulhi src1 src2 s
  | .mullo src1 src2 => Sys2Proof.Machine.execMullo src1 src2 s
  | .mulwhi src1 src2 => Sys2Proof.Machine.execMulwhi src1 src2 s
  | .mulwlo src1 src2 => Sys2Proof.Machine.execMulwlo src1 src2 s
  | .mvfachi dest => Sys2Proof.Machine.execMvfachi dest s
  | .mvfaclo dest => Sys2Proof.Machine.execMvfaclo dest s
  | .mvfacmi dest => Sys2Proof.Machine.execMvfacmi dest s
  | .mvtachi src => Sys2Proof.Machine.execMvtachi src s
  | .mvtaclo src => Sys2Proof.Machine.execMvtaclo src s
  | .rac => Sys2Proof.Machine.execRac s
  | .rach => Sys2Proof.Machine.execRach s
  | .fadd dest src1 src2 => Sys2Proof.Machine.execFadd dest src1 src2 s
  | .fsub dest src1 src2 => Sys2Proof.Machine.execFsub dest src1 src2 s
  | .fmul dest src1 src2 => Sys2Proof.Machine.execFmul dest src1 src2 s
  | .fdiv dest src1 src2 => Sys2Proof.Machine.execFdiv dest src1 src2 s
  | .fmadd dest src1 src2 => Sys2Proof.Machine.execFmadd dest src1 src2 s
  | .fmsub dest src1 src2 => Sys2Proof.Machine.execFmsub dest src1 src2 s
  | .itof dest src => Sys2Proof.Machine.execItof dest src s
  | .utof dest src => Sys2Proof.Machine.execUtof dest src s
  | .ftoi dest src => Sys2Proof.Machine.execFtoi dest src s
  | .ftos dest src => Sys2Proof.Machine.execFtos dest src s
  | .fcmp dest src1 src2 => Sys2Proof.Machine.execFcmp dest src1 src2 s
  | .fcmpe dest src1 src2 => Sys2Proof.Machine.execFcmpe dest src1 src2 s
  | .bset bitpos disp16 src => Sys2Proof.Machine.execBset bitpos disp16 src s
  | .bclr bitpos disp16 src => Sys2Proof.Machine.execBclr bitpos disp16 src s
  | .btst bitpos src => Sys2Proof.Machine.execBtst bitpos src s
  | .setpsw imm8 => Sys2Proof.Machine.execSetpsw imm8 s
  | .clrpsw imm8 => Sys2Proof.Machine.execClrpsw imm8 s

end Sys2Proof.Machine
end

