-- ==== Sys2Proof/Machine/Fetch.lean ====
section
/-! DEFINITION. Fetching the instruction at the program counter, and placing one there. -/

namespace Sys2Proof.Machine

/-- The instruction at the program counter: memory is read when the instruction executes (20_memory.md R85, R101) and
decoded by the slot it lies in (30_encoding.md R122). -/
def State.fetchInstr (s : State) : Except DecodeError Instr := decode (slotOf s.pc) s.fetchBytes

/-- The first halfword of an instruction given as spec/opcode_table.json numbers it. -/
def firstHalf (nbits w : Nat) : Half := BitVec.ofNat 16 (if nbits ≤ 16 then w else w / 65536)

/-- Its second halfword, zero for a 16-bit instruction. -/
def secondHalf (nbits w : Nat) : Half := BitVec.ofNat 16 (if nbits ≤ 16 then 0 else w)

/-- The state with an instruction of the table's numbering stored at the program counter: both halfwords in the upper
slot, the first alone in the lower slot, where the fetch reads no further (R111, R113). -/
def State.placeInstr (s : State) (nbits w : Nat) : State :=
  let t := s.writeHalf s.pc (firstHalf nbits w)
  match slotOf s.pc with
  | .upper => t.writeHalf (s.pc + 2) (secondHalf nbits w)
  | .lower => t

/-- The state with no interrupt accepted at this boundary: the request of this boundary is withdrawn where it would
be. -/
def State.withoutInterrupt (s : State) : State :=
  if s.acceptsInterrupt then { s with intRequests := false :: s.intRequests.tail } else s

end Sys2Proof.Machine
end

