-- ==== Sys2Proof/Machine/Step.lean ====
section
/-! DEFINITION. One step of the machine. -/

namespace Sys2Proof.Machine

/-- One step: at the instruction boundary the environment's interrupt request comes up; an accepted interrupt is taken
in a step of its own (60_exceptions.md R430, R424), else the instruction at the program counter executes
(30_encoding.md R122). Bytes that are no instruction stop the machine (R412). -/
def step (s : State) : Host.Outcome State Fault Refusal :=
  if s.acceptsInterrupt then .next s.pastBoundary.takeInterrupt
  else
    match s.fetchInstr with
    | .ok i => exec i s.pastBoundary
    | .error _ => .fault .reservedInstruction

/-- The state with the given instruction where the next step fetches, and no interrupt accepted before it. -/
def State.withFetchWord (s : State) (nbits w : Nat) : State := s.withoutInterrupt.placeInstr nbits w

end Sys2Proof.Machine
end

