-- ==== Sys2Proof/Safety.lean ====
section
/-! DEFINITION. What holds of every state a run can reach, and the frames the claims are stated with: what an
instruction leaves unchanged. -/

namespace Sys2Proof.Machine

/-- What every step keeps: the program counter lies on a halfword (10_state.md R25), the bits of PSW and FPSR where
nothing is placed are 0 (R32, R40), bit 0 of BPC is 0 (R38), memory is in its canonical form. -/
structure State.Legal (s : State) : Prop where
  /-- the program counter is a halfword address -/
  pc_even : s.pc.getLsbD 0 = false
  /-- PSW holds nothing where nothing is placed -/
  psw_reserved : s.psw &&& 0xFFFF3E3E#32 = 0
  /-- BPC is a halfword address -/
  bpc_even : s.bpc.getLsbD 0 = false
  /-- FPSR stores nothing where nothing is placed, and FS is not stored -/
  fpsr_reserved : s.fpsr &&& 0x83FF8200#32 = 0
  /-- memory is canonical -/
  mem_wf : Memory.wf s.mem = true

/-- A part of the state beside the general registers, the program counter and memory. -/
inductive Part where
  | psw
  | c
  | spi
  | spu
  | bpc
  | fpsr
  | acc
  | lock
  deriving DecidableEq, Repr

/-- From `s` to `t` nothing changed but the program counter, the general registers `regs`, the parts `parts`, the bytes
of memory at `stored` and the model's own count of draws. R15 among `regs` stands for the stack pointer that SM selects
in `s`; the other one is unchanged. `Part.c` is the condition bit alone, `Part.psw` all of PSW; whether its backup bits
are undefined since an RTE goes with `Part.psw`, whether BPC is with `Part.bpc`. -/
structure Frame (regs : List Reg) (parts : List Part) (stored : List Word) (s t : State) : Prop where
  /-- R0 to R14 -/
  gpr : ∀ r : Reg, r.val < 15 → r ∉ regs → t.reg r = s.reg r
  /-- the interrupt stack pointer -/
  spi : Part.spi ∉ parts → ((15 : Reg) ∈ regs → s.sm = true) → t.spi = s.spi
  /-- the user stack pointer -/
  spu : Part.spu ∉ parts → ((15 : Reg) ∈ regs → s.sm = false) → t.spu = s.spu
  /-- the condition bit -/
  c : Part.c ∉ parts → Part.psw ∉ parts → t.c = s.c
  /-- every other bit of PSW -/
  psw : Part.psw ∉ parts → ∀ k, 0 < k → t.psw.getLsbD k = s.psw.getLsbD k
  /-- BPC -/
  bpc : Part.bpc ∉ parts → t.bpc = s.bpc
  /-- whether BSM, BIE, BC are undefined since an RTE -/
  bpswOpen : Part.psw ∉ parts → t.bpswOpen = s.bpswOpen
  /-- whether BPC is undefined since an RTE -/
  bpcOpen : Part.bpc ∉ parts → t.bpcOpen = s.bpcOpen
  /-- FPSR -/
  fpsr : Part.fpsr ∉ parts → t.fpsr = s.fpsr
  /-- the accumulator -/
  acc : Part.acc ∉ parts → t.acc = s.acc
  /-- the LOCK bit -/
  lock : Part.lock ∉ parts → t.lockBit = s.lockBit
  /-- every byte of memory that is not stored to -/
  mem : ∀ a : Word, a ∉ stored → t.readByte a = s.readByte a
  /-- the entry addresses -/
  vectors : t.vectors = s.vectors
  /-- the environment's coming interrupt requests -/
  intRequests : t.intRequests = s.intRequests

/-- The addresses of the bytes of an access of a width at `ea`. -/
def AccessWidth.bytesAt (w : AccessWidth) (ea : Word) : List Word :=
  match w with
  | .byte => [ea]
  | .half => [ea, ea + 1]
  | .word => [ea, ea + 1, ea + 2, ea + 3]

/-- Executing `i` at `s` answers a next state: the instruction after its `len` bytes is next, only what is named
changed, and `P` holds of the state reached. -/
def Completes (i : Instr) (s : State) (len : Word) (regs : List Reg) (parts : List Part) (stored : List Word)
    (P : State → Prop) : Prop :=
  ∃ t, exec i s = .next t ∧ t.pc = s.pc + len ∧ Frame regs parts stored s t ∧ P t

/-- Executing `i` at `s` answers a next state in which register `d` holds `v`, and nothing else changed. -/
def WritesReg (i : Instr) (s : State) (len : Word) (d : Reg) (v : Word) : Prop :=
  Completes i s len [d] [] [] (fun t => t.reg d = v)

/-- Executing `i` at `s` answers a next state in which the condition bit is `b`, and nothing else changed. -/
def WritesC (i : Instr) (s : State) (len : Word) (b : Bool) : Prop :=
  Completes i s len [] [.c] [] (fun t => t.c = b)

/-- Executing `i` at `s` answers a next state in which the accumulator holds the integer `v` modulo 2^56, and nothing
else changed. -/
def WritesAcc (i : Instr) (s : State) (v : Int) : Prop :=
  Completes i s 2 [] [.acc] [] (fun t => t.acc = BitVec.ofInt 56 v)

/-- Executing `i` at `s` answers a next state at `target`, with nothing changed but the registers `regs`. -/
def GoesTo (i : Instr) (s : State) (regs : List Reg) (target : Word) (P : State → Prop) : Prop :=
  ∃ t, exec i s = .next t ∧ t.pc = target ∧ Frame regs [] [] s t ∧ P t

/-- `t` is `s` after the entry of an EIT with the given BPC (60_exceptions.md R420): BPC, PSW and the program counter
as the entry leaves them, both stack pointers and everything else unchanged; of FPSR and the coming requests it says
nothing. -/
structure EntersEit (k : EitKind) (bpcValue : Word) (s t : State) : Prop where
  pc : t.pc = eitEntryAddress s.vectors k
  bpc : t.bpc = bpcValue
  bsm : t.bsm = s.sm
  bie : t.bie = s.ie
  bc : t.bc = s.c
  sm : t.sm = if k = .ei then false else s.sm
  ie : t.ie = false
  c : t.c = false
  reserved : t.psw &&& 0xFFFF3E3E#32 = 0
  returnDefined : t.bpswOpen = false ∧ t.bpcOpen = false
  gpr : ∀ r : Reg, r.val < 15 → t.reg r = s.reg r
  spi : t.spi = s.spi
  spu : t.spu = s.spu
  acc : t.acc = s.acc
  lock : t.lockBit = s.lockBit
  mem : ∀ a : Word, t.readByte a = s.readByte a
  vectors : t.vectors = s.vectors

/-- Executing `i` at `s` takes the address exception, and nothing else of it happens. -/
def TakesAe (i : Instr) (s : State) : Prop :=
  ∃ t, exec i s = .next t ∧ EntersEit .ae s.pc s t ∧ t.fpsr = s.fpsr ∧ t.intRequests = s.intRequests

/-- Bit `k` of the cause field of an FPSR stands for its exception in the set, for every cause bit (10_state.md
R40). -/
def CausesAre (fpsr : Word) (x : FpExceptions) : Prop :=
  fpsr.getLsbD 7 = x.uipl ∧ fpsr.getLsbD 6 = x.ixct ∧ fpsr.getLsbD 5 = x.udf ∧ fpsr.getLsbD 4 = x.div0 ∧
    fpsr.getLsbD 3 = x.ovf ∧ fpsr.getLsbD 2 = x.ivld

/-- The flags of the set are raised over the old ones (46_float_common.md R345). -/
def FlagsRaised (old new : Word) (x : FpExceptions) : Prop :=
  new.getLsbD 30 = (old.getLsbD 30 || x.ixct) ∧ new.getLsbD 29 = (old.getLsbD 29 || x.udf) ∧
    new.getLsbD 28 = (old.getLsbD 28 || x.div0) ∧ new.getLsbD 27 = (old.getLsbD 27 || x.ovf) ∧
    new.getLsbD 26 = (old.getLsbD 26 || x.ivld)

/-- Every bit of FPSR outside the causes (7 to 2) and the flags (30 to 26) is as before. -/
def FpsrRestKept (old new : Word) : Prop :=
  ∀ k, (k < 2 ∨ 7 < k) → (k < 26 ∨ 30 < k) → new.getLsbD k = old.getLsbD k

/-- Executing the FPU instruction `i` at `s` completes with the word `v` in `d` and the exceptions `x` raised, none of
them forcing the EIT. -/
def FpuCompletes (i : Instr) (s : State) (d : Reg) (v : Word) (x : FpExceptions) : Prop :=
  Completes i s 4 [d] [.fpsr] [] (fun t =>
    t.reg d = v ∧ CausesAre t.fpsr x ∧ FlagsRaised s.fpsr t.fpsr x ∧ FpsrRestKept s.fpsr t.fpsr)

/-- Executing the FPU instruction `i` at `s` takes the floating-point exception with the exceptions `x` as causes: the
destination and the flags keep their values. -/
def TakesFpe (i : Instr) (s : State) (x : FpExceptions) : Prop :=
  ∃ t, exec i s = .next t ∧ EntersEit .fpe (s.pc + 4) s t ∧ CausesAre t.fpsr x ∧
    FlagsRaised s.fpsr t.fpsr noExceptions ∧ FpsrRestKept s.fpsr t.fpsr ∧ t.intRequests = s.intRequests

/-- The FPU instruction `i` at `s` ends as its result `r` says (46_float_common.md R340): where the raised exceptions
force the EIT the FPE is taken (told of an even program counter); else a word was produced, and it completes with
it. -/
def FpuEnds (i : Instr) (s : State) (d : Reg) (r : FpResult) : Prop :=
  (r.raised.forced s.fpsr = true → s.pc.getLsbD 0 = false → TakesFpe i s r.raised) ∧
    (r.raised.forced s.fpsr = false → ∃ v, r.val = some v ∧ FpuCompletes i s d v r.raised)

-- ## What the spec says of a floating-point result, told by the values of words alone

/-- FPSR.RM, as its two bits (46_float_common.md R324). -/
def rmBits (fpsr : Word) : BitVec 2 := fpsr.extractLsb' 0 2

/-- An operand with DN = 1 applied: a denormalized one is the zero of its sign (R323). -/
def flushedOperand (fpsr w : Word) : Word :=
  if fpClass w = .denormal ∧ fpsr.getLsbD 8 = true then w &&& 0x80000000#32 else w

/-- `w` is a normalized word and, among the words of all finite numbers, the one that rounding `q` by the mode gives
(R324): the nearest, in a tie the one whose last bit is 0; the largest magnitude not above |q|; the least number not
below `q`; the greatest not above `q`. -/
def RoundsTo (rm : BitVec 2) (q : ℚ) (w : Word) : Prop :=
  fpClass w = .normal ∧ ∀ u : Word, fpClass u ≠ .inf → fpIsNan u = false →
    (rm = 0#2 → |fpValue w - q| ≤ |fpValue u - q| ∧
      (|fpValue w - q| = |fpValue u - q| → fpValue u ≠ fpValue w → w.getLsbD 0 = false)) ∧
    (rm = 1#2 → 0 < fpValue w * q ∧ |fpValue w| ≤ |q| ∧ (|fpValue u| ≤ |q| → |fpValue u| ≤ |fpValue w|)) ∧
    (rm = 2#2 → q ≤ fpValue w ∧ (q ≤ fpValue u → fpValue w ≤ fpValue u)) ∧
    (rm = 3#2 → fpValue w ≤ q ∧ (fpValue u ≤ q → fpValue u ≤ fpValue w))

/-- Rounded by the mode to 24 bits, `q` is beyond MAX = (2^24 - 1) * 2^104 (R327, D26): to nearest from the middle of
MAX and 2^128 on, in a direction that shrinks the magnitude from 2^128 on, in one that grows it above MAX. -/
def Overflows (rm : BitVec 2) (q : ℚ) : Prop :=
  if rm = 0#2 then (2 ^ 25 - 1) * (2 : ℚ) ^ 103 ≤ |q|
  else if rm = 1#2 ∨ (rm = 2#2 ∧ q < 0) ∨ (rm = 3#2 ∧ 0 < q) then (2 : ℚ) ^ 128 ≤ |q|
  else (2 ^ 24 - 1) * (2 : ℚ) ^ 104 < |q|

/-- The word a masked overflow delivers, by FPSR.RM and the sign of the result: the table of R327. -/
def maskedOverflowWord (rm : BitVec 2) (neg : Bool) : Word :=
  if rm = 3#2 then (if neg then 0xFF800000#32 else 0x7F7FFFFF#32)
  else if rm = 2#2 then (if neg then 0xFF7FFFFF#32 else 0x7F800000#32)
  else if rm = 1#2 then (if neg then 0xFF7FFFFF#32 else 0x7F7FFFFF#32)
  else (if neg then 0xFF800000#32 else 0x7F800000#32)

/-- The zero of a sign, true for negative (R322). -/
def zeroWord (neg : Bool) : Word := if neg then 0x80000000#32 else 0x00000000#32

/-- The infinity of a sign (R322). -/
def infinityWord (neg : Bool) : Word := if neg then 0xFF800000#32 else 0x7F800000#32

/-- `r` is what the exact result `q` delivers, rounded by `rm` (R326 to R329): an exact zero gives `zero`; below 2^-126
the underflow, by EU and DN; an overflow, by EO and FPSR.RM; else the rounded word, inexact where it is not `q`. -/
def Delivers (fpsr : Word) (rm : BitVec 2) (q : ℚ) (zero : Word) (r : FpResult) : Prop :=
  (q = 0 → r = ⟨some zero, noExceptions⟩) ∧
  (q ≠ 0 → |q| < (2 : ℚ) ^ (-126 : Int) → r =
    if fpsr.getLsbD 13 then ⟨none, { udf := true }⟩
    else if fpsr.getLsbD 8 then ⟨some (zeroWord (decide (q < 0))), { udf := true }⟩
    else ⟨none, { udf := true, uipl := true }⟩) ∧
  ((2 : ℚ) ^ (-126 : Int) ≤ |q| → Overflows rm q → r =
    if fpsr.getLsbD 11 then ⟨none, { ovf := true }⟩
    else ⟨some (maskedOverflowWord (rmBits fpsr) (decide (q < 0))), { ovf := true, ixct := true }⟩) ∧
  ((2 : ℚ) ^ (-126 : Int) ≤ |q| → ¬ Overflows rm q →
    ∃ w, RoundsTo rm q w ∧ r = ⟨some w, { ixct := decide (fpValue w ≠ q) }⟩)

/-- `r` is the sum of two words that are normalized, zero or infinite, by the table of R361: infinities of opposite
signs are the invalid operation; the zero of an exact sum keeps the sign of two equal zeros, and is else -0 exactly
where FPSR.RM = 11 (R335). -/
def SumEnds (fpsr x y : Word) (r : FpResult) : Prop :=
  if fpClass x = .inf ∧ fpClass y = .inf ∧ x ≠ y then r = ⟨some 0x7FFFFFFF#32, { ivld := true }⟩
  else if fpClass x = .inf then r = ⟨some x, noExceptions⟩
  else if fpClass y = .inf then r = ⟨some y, noExceptions⟩
  else Delivers fpsr (rmBits fpsr) (fpValue x + fpValue y)
    (if x = y then x else zeroWord (decide (rmBits fpsr = 3#2))) r

/-- `r` is the product, rounded by `rm`, of two words that are normalized, zero or infinite, by the table of R363; the
sign of a zero and of an infinity is the XOR of the signs (R335). -/
def ProductEnds (fpsr : Word) (rm : BitVec 2) (x y : Word) (r : FpResult) : Prop :=
  let neg := x.getLsbD 31 ^^ y.getLsbD 31
  if (fpClass x = .zero ∧ fpClass y = .inf) ∨ (fpClass x = .inf ∧ fpClass y = .zero) then
    r = ⟨some 0x7FFFFFFF#32, { ivld := true }⟩
  else if fpClass x = .inf ∨ fpClass y = .inf then r = ⟨some (infinityWord neg), noExceptions⟩
  else Delivers fpsr rm (fpValue x * fpValue y) (zeroWord neg) r

/-- `r` is the quotient of two words that are normalized, zero or infinite, by the table of R364. -/
def QuotientEnds (fpsr x y : Word) (r : FpResult) : Prop :=
  let neg := x.getLsbD 31 ^^ y.getLsbD 31
  if (fpClass x = .zero ∧ fpClass y = .zero) ∨ (fpClass x = .inf ∧ fpClass y = .inf) then
    r = ⟨some 0x7FFFFFFF#32, { ivld := true }⟩
  else if fpClass x = .inf then r = ⟨some (infinityWord neg), noExceptions⟩
  else if fpClass y = .inf then r = ⟨some (zeroWord neg), noExceptions⟩
  else if fpClass y = .zero then r = ⟨some (infinityWord neg), { div0 := true }⟩
  else Delivers fpsr (rmBits fpsr) (fpValue x / fpValue y) (zeroWord neg) r

/-- `r` is what an operation on the register values `x` and `y` gives: an SNaN, quieted, with IVLD; else a QNaN; else
UIPL for a denormalized operand with DN = 0; else what the arithmetic says (R333, R334, D25). -/
def Screened (fpsr x y : Word) (arithmetic : FpResult → Prop) (r : FpResult) : Prop :=
  if fpClass x = .snan ∨ fpClass y = .snan then
    r = ⟨some ((if fpClass y = .snan then y else x) ||| 0x00400000#32), { ivld := true }⟩
  else if fpClass x = .qnan ∨ fpClass y = .qnan then
    r = ⟨some (if fpClass y = .qnan then y else x), noExceptions⟩
  else if (fpClass x = .denormal ∨ fpClass y = .denormal) ∧ fpsr.getLsbD 8 = false then
    r = ⟨none, { uipl := true }⟩
  else arithmetic r

/-- `r` is what FMADD makes of the old Rdest `d` and the result `r1` of step 1, FMSUB where `subtract` (R365, R366,
D25, D29): step 1 forcing the EIT, then a NaN, then a denormalized `d` with DN = 0, then the immediate of an overflow
of step 1 over a finite `d`, then the sum; both steps' exceptions are raised. -/
def AddendEnds (fpsr d : Word) (subtract : Bool) (r1 r : FpResult) : Prop :=
  let signed : Word → Word := fun p => if subtract then p ^^^ 0x80000000#32 else p
  let d' := flushedOperand fpsr d
  let tiny := fpClass d = .denormal ∧ fpsr.getLsbD 8 = false
  if r1.raised.forced fpsr = true then
    r = ⟨none, { r1.raised with
      ivld := r1.raised.ivld || decide (fpClass d = .snan), uipl := r1.raised.uipl || decide tiny }⟩
  else ∃ p, r1.val = some p ∧
    if fpClass d = .snan then r = ⟨some (d ||| 0x00400000#32), { r1.raised with ivld := true }⟩
    else if fpClass d = .qnan then r = ⟨some d, r1.raised⟩
    else if fpClass p = .qnan then r = ⟨some p, r1.raised⟩
    else if tiny then r = ⟨none, { r1.raised with uipl := true }⟩
    else if r1.raised.ovf = true ∧ fpClass d' ≠ .inf then r = ⟨some (signed p), r1.raised⟩
    else ∃ r2, SumEnds fpsr d' (signed p) r2 ∧ r = ⟨r2.val, r1.raised.union r2.raised⟩

end Sys2Proof.Machine
end

