-- ==== Sys2Proof/Certificates/Slice0/Obligations.lean ====
section
/-! DEFINITION. The statements for the provers. Where a docstring names an entry, the statement rests there on a choice
of the model or of the spec (notes/assumptions). -/

open Sys2Proof Sys2Proof.Machine

/-- O1. One or more words of every family, as the instruction pages and test vectors print them, decode to that
instruction. -/
def Obligations.DecodeSampleWords : Prop :=
  decodeTableWord 16 0x21E2 = some (.ldPostInc 1 2) ∧ decodeTableWord 32 0xA1C2FFFC = some (.ldDisp 1 0xFFFC#16 2) ∧
    decodeTableWord 16 0x2172 = some (.stPreDec 1 2) ∧ decodeTableWord 16 0x2132 = some (.sthPostInc 1 2) ∧
    decodeTableWord 32 0xE2FFFFFF = some (.ld24 2 0xFFFFFF#24) ∧ decodeTableWord 16 0x11A2 = some (.mvtc 2 1) ∧
    decodeTableWord 16 0x0142 = some (.cmp 1 2) ∧ decodeTableWord 32 0x8052FFFF = some (.cmpui 2 0xFFFF#16) ∧
    decodeTableWord 16 0x01A2 = some (.add 1 2) ∧ decodeTableWord 32 0x81D2FFFF = some (.xor3 1 2 0xFFFF#16) ∧
    decodeTableWord 32 0x91220000 = some (.rem 1 2) ∧ decodeTableWord 16 0x515F = some (.slli 1 31#5) ∧
    decodeTableWord 16 0x7C04 = some (.bc8 4#8) ∧ decodeTableWord 32 0xFEFFFFFC = some (.bl24 0xFFFFFC#24) ∧
    decodeTableWord 32 0xB112FFFF = some (.bne 1 2 0xFFFF#16) ∧ decodeTableWord 16 0x1EC3 = some (.jl 3) ∧
    decodeTableWord 16 0x10F1 = some (.trap 1) ∧ decodeTableWord 16 0x10D6 = some .rte ∧
    decodeTableWord 16 0x3152 = some (.maclo 1 2) ∧ decodeTableWord 16 0x53F2 = some (.mvfacmi 3) ∧
    decodeTableWord 16 0x5080 = some .rach ∧ decodeTableWord 32 0xD1023040 = some (.fmsub 0 1 2) ∧
    decodeTableWord 32 0xD0004580 = some (.ftoi 5 0) ∧ decodeTableWord 32 0xD00106C0 = some (.fcmp 6 0 1) ∧
    decodeTableWord 32 0xA772FFFF = some (.bclr 7 0xFFFF#16 2) ∧ decodeTableWord 16 0x07F2 = some (.btst 7 2) ∧
    decodeTableWord 16 0x7240 = some (.clrpsw 0x40#8)

/-- O2. For every instruction, whatever its operands and whatever bytes follow, decoding its bytes in the upper slot gives
the instruction back; a 16-bit instruction decodes to itself in the lower slot too. -/
def Obligations.DecodeEncode : Prop :=
  ∀ (i : Instr) (rest : List Byte),
    decode .upper (encodeBytes i ++ rest) = .ok i ∧
      (i.isLong = false → decode .lower (encodeBytes i ++ rest) = .ok i)

/-- O3. No two byte patterns stand for one instruction: four bytes that decode in the upper slot to an instruction begin
with its encoding; in the lower slot the instruction has 16 bits and the bytes are its encoding, or they are the
parallel NOP 0xF000. That every printed constant bit is part of the match is decision D19, and that no other halfword
with its top bit set stands in the lower slot decision D18 (both entry 14). -/
def Obligations.EncodeDecode : Prop :=
  ∀ (b0 b1 b2 b3 : Byte) (i : Instr),
    (decode .upper [b0, b1, b2, b3] = .ok i →
      encodeBytes i = if i.isLong then [b0, b1, b2, b3] else [b0, b1]) ∧
    (decode .lower [b0, b1, b2, b3] = .ok i →
      i.isLong = false ∧ (encodeBytes i = [b0, b1] ∨ (i = .nop ∧ b0 = 0xF0#8 ∧ b1 = 0x00#8)))

/-- O4. At a word-aligned address an instruction has 32 bits exactly when the top bit of its first halfword is 1; in the
lower halfword every instruction has 16 bits. The first halfword of a 32-bit encoding has its top bit 1, that of a
16-bit encoding 0. -/
def Obligations.LengthRule : Prop :=
  (∀ (b0 b1 b2 b3 : Byte) (i : Instr), decode .upper [b0, b1, b2, b3] = .ok i → i.isLong = b0.msb) ∧
    (∀ (b0 b1 b2 b3 : Byte) (i : Instr), decode .lower [b0, b1, b2, b3] = .ok i → i.isLong = false) ∧
    (∀ i : Instr, ∃ h rest, encode i = h :: rest ∧ h.msb = i.isLong)

/-- O5. At a word-aligned program counter where no interrupt is accepted, bytes of which no instruction's encoding is a
beginning stop the machine in ReservedInstruction. In the lower slot the same holds of the 16-bit encodings, but for
the parallel NOP. That such bytes stop the machine is the spec's decision D8, and which bytes those are rests on its
decisions D18 and D19 (entry 14). -/
def Obligations.ReservedEncodingStops : Prop :=
  ∀ s : State, s.acceptsInterrupt = false →
    (s.pc.getLsbD 1 = false → (∀ i : Instr, ¬ encodeBytes i <+: s.fetchBytes) →
      step s = .fault .reservedInstruction) ∧
    (s.pc.getLsbD 1 = true → (∀ i : Instr, i.isLong = false → ¬ encodeBytes i <+: s.fetchBytes) →
      s.readHalf s.pc ≠ 0xF000#16 → step s = .fault .reservedInstruction)

/-- O6. At a program counter with low bits 10 and a halfword whose top bit is 1: the halfword 0xF000 acts as a NOP, going
on to the next word with nothing changed; every other such halfword stops the machine (the spec's decision D18, entry
14). That no interrupt is taken there, whatever is requested, is decision D33 (entry 9). -/
def Obligations.ParallelNop : Prop :=
  ∀ s : State, s.pc.getLsbD 0 = false → s.pc.getLsbD 1 = true → (s.readHalf s.pc).msb = true →
    (s.readHalf s.pc = 0xF000#16 →
      ∃ t, step s = .next t ∧ t.pc = s.pc + 2 ∧ Frame [] [] [] s.pastBoundary t) ∧
    (s.readHalf s.pc ≠ 0xF000#16 → step s = .fault .reservedInstruction)

/-- O7. Where no interrupt is accepted (no request at this boundary, or IE = 0, or the program counter not word-aligned)
and the bytes at the program counter decode to i in their slot, step is exec of i on the state past the boundary,
which differs only in the environment's coming requests. That an interrupt waits for a word boundary is decision D33
(entry 9). -/
def Obligations.StepRunsDecoded : Prop :=
  ∀ (s : State) (i : Instr),
    (s.intRequests.head? = some true → s.ie = true → s.pc.getLsbD 0 = false → s.pc.getLsbD 1 = true) →
    decode (if s.pc.getLsbD 1 then .lower else .upper) s.fetchBytes = .ok i →
    step s = exec i { s with intRequests := s.intRequests.tail }

/-- O8. With a request at this boundary, IE = 1 and a word-aligned program counter, the step takes the interrupt: BPC is
the program counter, BSM, BIE, BC take SM, IE, C, the three become 0, control goes to the EI entry, nothing else
changes and the instruction is not executed. The entry sequence and the word boundary are the spec's decisions D32,
D33 (entries 8, 9), the request at a boundary D7 (entry 7). That an EIT entry keeps the LOCK bit is R63's choice
(entry 5). -/
def Obligations.InterruptTaken : Prop :=
  ∀ (s : State) (rest : List Bool), s.intRequests = true :: rest → s.ie = true →
    s.pc.getLsbD 0 = false → s.pc.getLsbD 1 = false →
    ∃ t, step s = .next t ∧ EntersEit .ei s.pc s t ∧ t.fpsr = s.fpsr ∧ t.intRequests = rest

/-- O9. With IE = 0, a step that answers a next state answers the same state whatever the environment requests, but for
the requests themselves. The request as an input at each boundary is decision D7 (entry 7). -/
def Obligations.MaskedInterruptIgnored : Prop :=
  ∀ (s t : State) (requests : List Bool), s.ie = false → step s = .next t →
    step { s with intRequests := requests } = .next { t with intRequests := requests.tail }

/-- O10. TRAP #n: BPC becomes PC + 4, BSM, BIE, BC take SM, IE, C, IE and C become 0, SM is kept, control goes to the
entry address of trap n, and nothing else changes. In the lower halfword PC + 4 is the literal reading of the page
that 90_conflicts.md C9 takes (entry 9); the word-aligned entry addresses are D3 (entry 6), and addresses wrap modulo
2^32 (D12, entry 23). That an EIT entry keeps the LOCK bit is R63's choice (entry 5). -/
def Obligations.TrapEnters : Prop :=
  ∀ (n : Fin 16) (s : State), s.pc.getLsbD 0 = false →
    ∃ t, exec (.trap n) s = .next t ∧ EntersEit (.trap n) (s.pc + 4) s t ∧ t.fpsr = s.fpsr ∧
      t.intRequests = s.intRequests

/-- O11. RTE, where BSM, BIE, BC and BPC have been written since the last RTE: SM, IE, C take BSM, BIE, BC, the program
counter becomes BPC and 0xFFFFFFFC; PSW and BPC are otherwise open, but bits where nothing is placed and bit 0 of BPC
are 0; nothing else changes. An RTE that would use what an earlier one left undefined is refused (U2); the two fields
that say so are the model's own (entry 17). That RTE keeps the LOCK bit is R63's choice (entry 5). -/
def Obligations.RteReturns : Prop :=
  ∀ s : State,
    (s.bpswOpen = false → s.bpcOpen = false →
      ∃ t, exec .rte s = .next t ∧ t.pc = s.bpc &&& 0xFFFFFFFC#32 ∧ t.sm = s.bsm ∧ t.ie = s.bie ∧ t.c = s.bc ∧
        Frame [] [.psw, .bpc] [] s t ∧ t.psw &&& 0xFFFF3E3E#32 = 0 ∧ t.bpc.getLsbD 0 = false ∧
        exec .rte t = .refused .undefinedReturnState) ∧
    ((s.bpswOpen = true ∨ s.bpcOpen = true) → exec .rte s = .refused .undefinedReturnState)

/-- O12. From a halfword-aligned program counter, executing TRAP and then RTE leads to the word after the TRAP's word,
with SM, IE, C, every register and all of memory as before the TRAP. It holds for either reading of BPC that
90_conflicts.md C9 weighs; addresses wrap modulo 2^32 (D12, entry 23). That neither touches the LOCK bit is R63's
choice (entry 5). -/
def Obligations.TrapThenRte : Prop :=
  ∀ (n : Fin 16) (s : State), s.pc.getLsbD 0 = false →
    ∃ t u, exec (.trap n) s = .next t ∧ exec .rte t = .next u ∧
      u.pc = (s.pc &&& 0xFFFFFFFC#32) + 4 ∧ u.sm = s.sm ∧ u.ie = s.ie ∧ u.c = s.c ∧ Frame [] [.psw, .bpc] [] s u

/-- O13. For a word access at an address that is no multiple of 4, and a halfword access at an odd one, every load, store,
LOCK and (with the LOCK bit 1) UNLOCK form takes AE: BPC is the address of the instruction, PSW is saved, no register,
no base and no byte of memory changes. What the entry saves and that nothing else happens are the spec's decisions
D14, D31, D32 (entries 8 to 10). Addresses wrap modulo 2^32 (D12, entry 23). That an EIT entry keeps the LOCK bit is
R63's choice (entry 5). -/
def Obligations.AddressException : Prop :=
  ∀ (d b : Reg) (disp : BitVec 16) (s : State), s.pc.getLsbD 0 = false →
    ((s.reg b).toNat % 4 ≠ 0 →
      TakesAe (.ld d b) s ∧ TakesAe (.lock d b) s ∧ TakesAe (.st d b) s ∧
        (d ≠ b → TakesAe (.ldPostInc d b) s ∧ TakesAe (.stPreInc d b) s ∧ TakesAe (.stPreDec d b) s) ∧
        (s.lockBit = true → TakesAe (.unlock d b) s)) ∧
    ((s.eaDisplaced disp b).toNat % 4 ≠ 0 → TakesAe (.ldDisp d disp b) s ∧ TakesAe (.stDisp d disp b) s) ∧
    ((s.reg b).toNat % 2 ≠ 0 →
      TakesAe (.ldh d b) s ∧ TakesAe (.lduh d b) s ∧ TakesAe (.sth d b) s ∧ TakesAe (.sthPostInc d b) s) ∧
    ((s.eaDisplaced disp b).toNat % 2 ≠ 0 →
      TakesAe (.ldhDisp d disp b) s ∧ TakesAe (.lduhDisp d disp b) s ∧ TakesAe (.sthDisp d disp b) s)

/-- O14. Reading R15 gives SPI while SM = 0 and SPU while SM = 1; writing R15 writes that register and not the other;
after SETPSW or CLRPSW of SM the next access reaches the other one. There are two cells, not three. -/
def Obligations.R15Banked : Prop :=
  ∀ (d r : Reg) (s : State),
    WritesReg (.mv d 15) s 2 d (if s.sm then s.spu else s.spi) ∧
    (s.sm = false → ∃ t, exec (.mv 15 r) s = .next t ∧ t.spi = s.reg r ∧ t.spu = s.spu) ∧
    (s.sm = true → ∃ t, exec (.mv 15 r) s = .next t ∧ t.spu = s.reg r ∧ t.spi = s.spi) ∧
    (∃ t, exec (.setpsw 0x80#8) s = .next t ∧ t.reg 15 = s.spu) ∧
    (∃ t, exec (.clrpsw 0x80#8) s = .next t ∧ t.reg 15 = s.spi)

/-- O15. MVFC delivers PSW with bits where nothing is placed as 0, CBR as the condition bit at bit 0, SPI, SPU and BPC
with bit 0 as 0, FPSR with FS computed at bit 31 and bits where nothing is placed as 0, and changes nothing else. The
place of C in CBR is the spec's general knowledge G2 (entry 20). -/
def Obligations.MvfcReads : Prop :=
  ∀ (d : Reg) (s : State),
    WritesReg (.mvfc d 0) s 2 d (s.psw &&& 0x0000C1C1#32) ∧
    WritesReg (.mvfc d 1) s 2 d (if s.c then 0x00000001#32 else 0x00000000#32) ∧
    WritesReg (.mvfc d 2) s 2 d s.spi ∧ WritesReg (.mvfc d 3) s 2 d s.spu ∧
    WritesReg (.mvfc d 6) s 2 d (s.bpc &&& 0xFFFFFFFE#32) ∧
    WritesReg (.mvfc d 7) s 2 d ((s.fpsr &&& 0x7C007DFF#32) |||
      (if s.fpsr &&& 0x3C000000#32 = 0 then 0x00000000#32 else 0x80000000#32))

/-- O16. MVTC writes the bits of PSW that exist (that the others ignore it is decision D13, entry 21), nothing for CBR,
all of SPI or SPU, BPC with bit 0 kept 0, FPSR with a cause bit kept only by 1 and bits where nothing is placed
ignored (D13 too); no other register, bit or byte changes. What an RTE left undefined counts as defined once it is
written (U2; the two fields that say so are the model's own, entry 17). -/
def Obligations.MvtcWrites : Prop :=
  ∀ (r : Reg) (s : State),
    Completes (.mvtc r 0) s 2 [] [.psw] [] (fun t => t.psw = s.reg r &&& 0x0000C1C1#32 ∧ t.bpswOpen = false) ∧
    Completes (.mvtc r 1) s 2 [] [] [] (fun _ => True) ∧
    Completes (.mvtc r 2) s 2 [] [.spi] [] (fun t => t.spi = s.reg r) ∧
    Completes (.mvtc r 3) s 2 [] [.spu] [] (fun t => t.spu = s.reg r) ∧
    Completes (.mvtc r 6) s 2 [] [.bpc] [] (fun t => t.bpc = s.reg r &&& 0xFFFFFFFE#32 ∧ t.bpcOpen = false) ∧
    Completes (.mvtc r 7) s 2 [] [.fpsr] [] (fun t =>
      t.fpsr = (s.reg r &&& 0x7C007D03#32) ||| (s.fpsr &&& s.reg r &&& 0x000000FC#32))

/-- O17. MVFC from FPSR delivers FU or FZ or FO or FV at bit 31, whatever is stored; MVTC to FPSR leaves the same state
whatever bit 31 of the written value is. -/
def Obligations.FpsrSummary : Prop :=
  (∀ (d : Reg) (s : State), Completes (.mvfc d 7) s 2 [d] [] [] (fun t =>
      (t.reg d).getLsbD 31 = (s.fpsr.getLsbD 29 || s.fpsr.getLsbD 28 || s.fpsr.getLsbD 27 || s.fpsr.getLsbD 26))) ∧
    (∀ (r : Reg) (s : State), s.reg r &&& 0x80000000#32 = 0 →
      ∃ t u, exec (.mvtc r 7) s = .next t ∧ exec (.mvtc r 7) (s.setReg r (s.reg r ||| 0x80000000#32)) = .next u ∧
        t.fpsr = u.fpsr ∧ t.fpsrRead = u.fpsrRead)

/-- O18. After MVTC to FPSR the flag, enable, DN and RM bits are those written, each cause bit is the old one and the
written one, and MVFC reads back those bits with 0 where nothing is placed (decision D13, entry 21); nothing else
changes. -/
def Obligations.FpsrWriteRule : Prop :=
  ∀ (d r : Reg) (s : State),
    Completes (.mvtc r 7) s 2 [] [.fpsr] [] (fun t =>
      (∀ k, (k < 2 ∨ k = 8 ∨ (10 ≤ k ∧ k ≤ 14) ∨ (26 ≤ k ∧ k ≤ 30)) →
        t.fpsr.getLsbD k = (s.reg r).getLsbD k) ∧
      (∀ k, 2 ≤ k → k ≤ 7 → t.fpsr.getLsbD k = (s.fpsr.getLsbD k && (s.reg r).getLsbD k))) ∧
    Completes (.mvfc d 7) s 2 [d] [] [] (fun t =>
      (∀ k, (k < 9 ∨ (10 ≤ k ∧ k ≤ 14) ∨ (26 ≤ k ∧ k ≤ 30)) → (t.reg d).getLsbD k = s.fpsr.getLsbD k) ∧
      (∀ k, (k = 9 ∨ (15 ≤ k ∧ k ≤ 25)) → (t.reg d).getLsbD k = false))

/-- O19. MVFC and MVTC with a control register number other than 0 to 3, 6, 7 are refused (U3, entry 13), and so are LD
Rd,@Rd+, ST Rs,@+Rs and ST Rs,@-Rs (U10, decision D20, entry 12): the treatments the spec gives where the manual
defines nothing. -/
def Obligations.RefusedForms : Prop :=
  (∀ (r : Reg) (n : CtrlNum) (s : State), n ∉ ([0, 1, 2, 3, 6, 7] : List CtrlNum) →
      exec (.mvfc r n) s = .refused .undefinedControlRegister ∧
      exec (.mvtc r n) s = .refused .undefinedControlRegister) ∧
    (∀ (r : Reg) (s : State), exec (.ldPostInc r r) s = .refused .overlappingRegisters ∧
      exec (.stPreInc r r) s = .refused .overlappingRegisters ∧
      exec (.stPreDec r r) s = .refused .overlappingRegisters)

/-- O20. SETPSW sets each of SM, IE, C whose bit in the immediate is 1, CLRPSW clears it; every other bit of PSW, whatever
the immediate, and everything else are unchanged. That the other bits of the immediate have no effect is decision D13
(entry 21). -/
def Obligations.SetClearPsw : Prop :=
  ∀ (imm : BitVec 8) (s : State),
    Completes (.setpsw imm) s 2 [] [.psw] [] (fun t =>
      t.sm = (s.sm || imm.getLsbD 7) ∧ t.ie = (s.ie || imm.getLsbD 6) ∧ t.c = (s.c || imm.getLsbD 0) ∧
        t.bpswOpen = s.bpswOpen ∧ ∀ k, k ≠ 7 → k ≠ 6 → k ≠ 0 → t.psw.getLsbD k = s.psw.getLsbD k) ∧
    Completes (.clrpsw imm) s 2 [] [.psw] [] (fun t =>
      t.sm = (s.sm && !imm.getLsbD 7) ∧ t.ie = (s.ie && !imm.getLsbD 6) ∧ t.c = (s.c && !imm.getLsbD 0) ∧
        t.bpswOpen = s.bpswOpen ∧ ∀ k, k ≠ 7 → k ≠ 6 → k ≠ 0 → t.psw.getLsbD k = s.psw.getLsbD k)

/-- O21. A word or halfword written is read back, the byte at its lowest address is its most significant one, and no other
byte changes, at every address modulo 2^32. The byte order is the spec's decision D1 (entry 3). -/
def Obligations.BigEndian : Prop :=
  ∀ (s : State) (a v : Word) (h : Half),
    (s.writeWord a v).readWord a = v ∧
    (s.writeWord a v).readByte a = v.extractLsb' 24 8 ∧ (s.writeWord a v).readByte (a + 1) = v.extractLsb' 16 8 ∧
    (s.writeWord a v).readByte (a + 2) = v.extractLsb' 8 8 ∧ (s.writeWord a v).readByte (a + 3) = v.extractLsb' 0 8 ∧
    (s.writeHalf a h).readHalf a = h ∧
    (s.writeHalf a h).readByte a = h.extractLsb' 8 8 ∧ (s.writeHalf a h).readByte (a + 1) = h.extractLsb' 0 8 ∧
    (∀ x, x ∉ AccessWidth.word.bytesAt a → (s.writeWord a v).readByte x = s.readByte x) ∧
    (∀ x, x ∉ AccessWidth.half.bytesAt a → (s.writeHalf a h).readByte x = s.readByte x)

/-- O22. At a word-aligned address: LD loads the word; LD @R+ also adds 4 to the base afterwards; LOCK also sets the LOCK
bit; nothing else changes. Addresses wrap modulo 2^32 (decision D12, entry 23). -/
def Obligations.WordLoads : Prop :=
  ∀ (d b : Reg) (disp : BitVec 16) (s : State),
    ((s.reg b).toNat % 4 = 0 →
      WritesReg (.ld d b) s 2 d (s.readWord (s.reg b)) ∧
      (d ≠ b → Completes (.ldPostInc d b) s 2 [d, b] [] [] (fun t =>
        t.reg d = s.readWord (s.reg b) ∧ t.reg b = s.reg b + 4)) ∧
      Completes (.lock d b) s 2 [d] [.lock] [] (fun t =>
        t.reg d = s.readWord (s.reg b) ∧ t.lockBit = true)) ∧
    ((s.reg b + disp.signExtend 32).toNat % 4 = 0 →
      WritesReg (.ldDisp d disp b) s 4 d (s.readWord (s.reg b + disp.signExtend 32)))

/-- O23. LDB and LDUB load the sign- or zero-extended byte at any address, LDH and LDUH the extended halfword at an even
one, in both forms; nothing else changes. Addresses wrap modulo 2^32 (decision D12, entry 23). -/
def Obligations.NarrowLoads : Prop :=
  ∀ (d b : Reg) (disp : BitVec 16) (s : State),
    WritesReg (.ldb d b) s 2 d ((s.readByte (s.reg b)).signExtend 32) ∧
    WritesReg (.ldub d b) s 2 d ((s.readByte (s.reg b)).zeroExtend 32) ∧
    WritesReg (.ldbDisp d disp b) s 4 d ((s.readByte (s.reg b + disp.signExtend 32)).signExtend 32) ∧
    WritesReg (.ldubDisp d disp b) s 4 d ((s.readByte (s.reg b + disp.signExtend 32)).zeroExtend 32) ∧
    ((s.reg b).toNat % 2 = 0 →
      WritesReg (.ldh d b) s 2 d ((s.readHalf (s.reg b)).signExtend 32) ∧
      WritesReg (.lduh d b) s 2 d ((s.readHalf (s.reg b)).zeroExtend 32)) ∧
    ((s.reg b + disp.signExtend 32).toNat % 2 = 0 →
      WritesReg (.ldhDisp d disp b) s 4 d ((s.readHalf (s.reg b + disp.signExtend 32)).signExtend 32) ∧
      WritesReg (.lduhDisp d disp b) s 4 d ((s.readHalf (s.reg b + disp.signExtend 32)).zeroExtend 32))

/-- O24. ST at a word-aligned, STH at an even and STB at any address store the register, its low 16 or its low 8 bits
there, in the plain and displacement forms; no register and no other byte changes. Addresses wrap modulo 2^32
(decision D12, entry 23). -/
def Obligations.PlainStores : Prop :=
  ∀ (a b : Reg) (disp : BitVec 16) (s : State),
    ((s.eaIndirect b).toNat % 4 = 0 → Completes (.st a b) s 2 [] [] (AccessWidth.word.bytesAt (s.eaIndirect b))
      (fun t => t.readWord (s.eaIndirect b) = s.reg a)) ∧
    ((s.eaDisplaced disp b).toNat % 4 = 0 →
      Completes (.stDisp a disp b) s 4 [] [] (AccessWidth.word.bytesAt (s.eaDisplaced disp b))
        (fun t => t.readWord (s.eaDisplaced disp b) = s.reg a)) ∧
    ((s.eaIndirect b).toNat % 2 = 0 → Completes (.sth a b) s 2 [] [] (AccessWidth.half.bytesAt (s.eaIndirect b))
      (fun t => t.readHalf (s.eaIndirect b) = (s.reg a).extractLsb' 0 16)) ∧
    ((s.eaDisplaced disp b).toNat % 2 = 0 →
      Completes (.sthDisp a disp b) s 4 [] [] (AccessWidth.half.bytesAt (s.eaDisplaced disp b))
        (fun t => t.readHalf (s.eaDisplaced disp b) = (s.reg a).extractLsb' 0 16)) ∧
    Completes (.stb a b) s 2 [] [] (AccessWidth.byte.bytesAt (s.eaIndirect b))
      (fun t => t.readByte (s.eaIndirect b) = (s.reg a).extractLsb' 0 8) ∧
    Completes (.stbDisp a disp b) s 4 [] [] (AccessWidth.byte.bytesAt (s.eaDisplaced disp b))
      (fun t => t.readByte (s.eaDisplaced disp b) = (s.reg a).extractLsb' 0 8)

/-- O25. ST @+R stores at the base plus 4 and ST @-R at the base minus 4, which the base becomes (two different
registers); STH @R+ stores the low halfword at the base and then adds 2 to it, the old value being stored where both
are one register; nothing else changes. Addresses wrap modulo 2^32 (decision D12, entry 23). -/
def Obligations.UpdatingStores : Prop :=
  ∀ (a b : Reg) (s : State),
    (a ≠ b → (s.eaPreIncrement b).toNat % 4 = 0 →
      Completes (.stPreInc a b) s 2 [b] [] (AccessWidth.word.bytesAt (s.eaPreIncrement b))
        (fun t => t.readWord (s.reg b + 4) = s.reg a ∧ t.reg b = s.reg b + 4)) ∧
    (a ≠ b → (s.eaPreDecrement b).toNat % 4 = 0 →
      Completes (.stPreDec a b) s 2 [b] [] (AccessWidth.word.bytesAt (s.eaPreDecrement b))
        (fun t => t.readWord (s.reg b - 4) = s.reg a ∧ t.reg b = s.reg b - 4)) ∧
    ((s.eaIndirect b).toNat % 2 = 0 →
      Completes (.sthPostInc a b) s 2 [b] [] (AccessWidth.half.bytesAt (s.eaIndirect b))
        (fun t => t.readHalf (s.reg b) = (s.reg a).extractLsb' 0 16 ∧ t.reg b = s.reg b + 2))

/-- O26. UNLOCK with the LOCK bit 1 and a word-aligned address stores the word there; with the LOCK bit 0 it stores
nothing, at any address (decision D15, entry 10); the LOCK bit is 0 afterwards; nothing else changes. -/
def Obligations.UnlockStores : Prop :=
  ∀ (a b : Reg) (s : State),
    (s.lockBit = true → (s.eaIndirect b).toNat % 4 = 0 →
      Completes (.unlock a b) s 2 [] [.lock] (AccessWidth.word.bytesAt (s.eaIndirect b))
        (fun t => t.readWord (s.eaIndirect b) = s.reg a ∧ t.lockBit = false)) ∧
    (s.lockBit = false → Completes (.unlock a b) s 2 [] [.lock] [] (fun t => t.lockBit = false))

/-- O27. BSET and BCLR at any address change the bit that bitpos names, counted from the most significant bit of the byte,
and no other bit of memory; the LOCK bit is 0 afterwards; no register and no flag changes. Addresses wrap modulo 2^32
(decision D12, entry 23). -/
def Obligations.BitSetClear : Prop :=
  ∀ (p : Fin 8) (disp : BitVec 16) (b : Reg) (s : State),
    Completes (.bset p disp b) s 4 [] [.lock] [s.eaDisplaced disp b] (fun t => t.lockBit = false ∧
      ∀ k, k < 8 → (t.readByte (s.eaDisplaced disp b)).getLsbD k =
        ((s.readByte (s.eaDisplaced disp b)).getLsbD k || decide (k + p.val = 7))) ∧
    Completes (.bclr p disp b) s 4 [] [.lock] [s.eaDisplaced disp b] (fun t => t.lockBit = false ∧
      ∀ k, k < 8 → (t.readByte (s.eaDisplaced disp b)).getLsbD k =
        ((s.readByte (s.eaDisplaced disp b)).getLsbD k && decide (k + p.val ≠ 7)))

/-- O28. LD24 delivers the zero-extended 24-bit immediate, LDI the sign-extended 8- or 16-bit one, SETH the immediate in
the upper half over zeros, MV the source register. -/
def Obligations.TransferValues : Prop :=
  ∀ (d r : Reg) (imm24 : BitVec 24) (imm16 : BitVec 16) (imm8 : BitVec 8) (s : State),
    WritesReg (.ld24 d imm24) s 4 d (imm24.zeroExtend 32) ∧
    WritesReg (.ldi8 d imm8) s 2 d (imm8.signExtend 32) ∧
    WritesReg (.ldi16 d imm16) s 4 d (imm16.signExtend 32) ∧
    WritesReg (.seth d imm16) s 4 d (imm16.zeroExtend 32 <<< 16) ∧
    WritesReg (.mv d r) s 2 d (s.reg r)

/-- O29. CMP and CMPI set C to signed less-than, CMPU and CMPUI to unsigned less-than (both immediates sign-extended),
BTST to the bit that bitpos names in the low byte. -/
def Obligations.Compares : Prop :=
  ∀ (a b : Reg) (imm : BitVec 16) (p : Fin 8) (s : State),
    WritesC (.cmp a b) s 2 ((s.reg a).slt (s.reg b)) ∧
    WritesC (.cmpi a imm) s 4 ((s.reg a).slt (imm.signExtend 32)) ∧
    WritesC (.cmpu a b) s 2 ((s.reg a).ult (s.reg b)) ∧
    WritesC (.cmpui a imm) s 4 ((s.reg a).ult (imm.signExtend 32)) ∧
    WritesC (.btst p b) s 2 ((s.reg b).getLsbD (7 - p.val))

/-- O30. The destination takes the sum, difference or negation modulo 2^32, immediates sign-extended; C and everything
else are unchanged, also where the destination is a source. The wrap is decision D12 (R200(c), entry 23). -/
def Obligations.AddSubtract : Prop :=
  ∀ (d r : Reg) (imm16 : BitVec 16) (imm8 : BitVec 8) (s : State),
    WritesReg (.add d r) s 2 d (s.reg d + s.reg r) ∧
    WritesReg (.add3 d r imm16) s 4 d (s.reg r + imm16.signExtend 32) ∧
    WritesReg (.addi d imm8) s 2 d (s.reg d + imm8.signExtend 32) ∧
    WritesReg (.neg d r) s 2 d (-(s.reg r)) ∧
    WritesReg (.sub d r) s 2 d (s.reg d - s.reg r)

/-- O31. The destination takes the result modulo 2^32; C becomes 1 if the exact signed result is no 32-bit signed integer,
else 0; nothing else changes. That the result is stored modulo 2^32 is decision D12 (R200(c), entry 23). -/
def Obligations.OverflowArithmetic : Prop :=
  ∀ (d r : Reg) (imm : BitVec 16) (s : State),
    Completes (.addv d r) s 2 [d] [.c] [] (fun t => t.reg d = s.reg d + s.reg r ∧
      (t.c = true ↔ ((s.reg d).toInt + (s.reg r).toInt < -2 ^ 31 ∨ 2 ^ 31 ≤ (s.reg d).toInt + (s.reg r).toInt))) ∧
    Completes (.addv3 d r imm) s 4 [d] [.c] [] (fun t => t.reg d = s.reg r + imm.signExtend 32 ∧
      (t.c = true ↔ ((s.reg r).toInt + imm.toInt < -2 ^ 31 ∨ 2 ^ 31 ≤ (s.reg r).toInt + imm.toInt))) ∧
    Completes (.subv d r) s 2 [d] [.c] [] (fun t => t.reg d = s.reg d - s.reg r ∧
      (t.c = true ↔ ((s.reg d).toInt - (s.reg r).toInt < -2 ^ 31 ∨ 2 ^ 31 ≤ (s.reg d).toInt - (s.reg r).toInt)))

/-- O32. The result of ADDX and its carry together are the exact unsigned sum with the old C; the result of SUBX less its
borrow is the exact difference with the old C; nothing else changes. That the low 32 bits are stored where the exact
result does not fit is decision D12 (R200(c), entry 23). -/
def Obligations.CarryArithmetic : Prop :=
  ∀ (d r : Reg) (s : State),
    Completes (.addx d r) s 2 [d] [.c] [] (fun t =>
      (t.reg d).toNat + 2 ^ 32 * t.c.toNat = (s.reg d).toNat + (s.reg r).toNat + s.c.toNat) ∧
    Completes (.subx d r) s 2 [d] [.c] [] (fun t =>
      ((t.reg d).toNat : Int) - 2 ^ 32 * t.c.toNat = (s.reg d).toNat - (s.reg r).toNat - s.c.toNat)

/-- O33. Every bit of the destination is the operation on the same bits of the operands, the immediates zero-extended;
nothing else changes. -/
def Obligations.Logic : Prop :=
  ∀ (d r : Reg) (imm : BitVec 16) (s : State),
    WritesReg (.and d r) s 2 d (s.reg d &&& s.reg r) ∧
    WritesReg (.and3 d r imm) s 4 d (s.reg r &&& imm.zeroExtend 32) ∧
    WritesReg (.or d r) s 2 d (s.reg d ||| s.reg r) ∧
    WritesReg (.or3 d r imm) s 4 d (s.reg r ||| imm.zeroExtend 32) ∧
    WritesReg (.xor d r) s 2 d (s.reg d ^^^ s.reg r) ∧
    WritesReg (.xor3 d r imm) s 4 d (s.reg r ^^^ imm.zeroExtend 32) ∧
    WritesReg (.not d r) s 2 d (~~~ s.reg r)

/-- O34. The destination takes the low 32 bits of the product; the accumulator may take any value; C and everything else
are unchanged. -/
def Obligations.Multiply : Prop :=
  ∀ (d r : Reg) (s : State),
    Completes (.mul d r) s 2 [d] [.acc] [] (fun t =>
      t.reg d = s.reg d * s.reg r ∧ ((t.reg d).toInt - (s.reg d).toInt * (s.reg r).toInt) % 2 ^ 32 = 0)

/-- O35. For a divisor that is not zero (and, for DIV and REM, operands other than 0x80000000 and 0xFFFFFFFF) the
destination is the quotient rounded toward zero, or the remainder with the dividend's sign; the unsigned forms divide
as unsigned integers; nothing else changes. -/
def Obligations.Divide : Prop :=
  ∀ (d r : Reg) (s : State), s.reg r ≠ 0 →
    (¬ (s.reg d = 0x80000000#32 ∧ s.reg r = 0xFFFFFFFF#32) →
      Completes (.div d r) s 4 [d] [] [] (fun t => (t.reg d).toInt = (s.reg d).toInt.tdiv (s.reg r).toInt) ∧
      Completes (.rem d r) s 4 [d] [] [] (fun t => (t.reg d).toInt = (s.reg d).toInt.tmod (s.reg r).toInt)) ∧
    Completes (.divu d r) s 4 [d] [] [] (fun t => (t.reg d).toNat = (s.reg d).toNat / (s.reg r).toNat) ∧
    Completes (.remu d r) s 4 [d] [] [] (fun t => (t.reg d).toNat = (s.reg d).toNat % (s.reg r).toNat)

/-- O36. With a zero divisor DIV, DIVU, REM and REMU change no register and raise nothing. DIV and REM of 0x80000000 by
0xFFFFFFFF complete with nothing but the destination changed, whose value the spec leaves undefined. That the
overflowing division goes on without an exception is decision D21 (entry 16). -/
def Obligations.DivideCorners : Prop :=
  ∀ (d r : Reg) (s : State),
    (s.reg r = 0 →
      Completes (.div d r) s 4 [] [] [] (fun _ => True) ∧ Completes (.divu d r) s 4 [] [] [] (fun _ => True) ∧
      Completes (.rem d r) s 4 [] [] [] (fun _ => True) ∧ Completes (.remu d r) s 4 [] [] [] (fun _ => True)) ∧
    (s.reg d = 0x80000000#32 → s.reg r = 0xFFFFFFFF#32 →
      Completes (.div d r) s 4 [d] [] [] (fun _ => True) ∧ Completes (.rem d r) s 4 [d] [] [] (fun _ => True))

/-- O37. SLL, SLL3, SLLI shift left, SRA, SRA3, SRAI arithmetically right, SRL, SRL3, SRLI logically right, by the amount
modulo 32; nothing else changes. -/
def Obligations.Shifts : Prop :=
  ∀ (d r : Reg) (imm : BitVec 16) (n : BitVec 5) (s : State),
    WritesReg (.sll d r) s 2 d (s.reg d <<< (s.reg r &&& 31)) ∧
    WritesReg (.sll3 d r imm) s 4 d (s.reg r <<< (imm &&& 31)) ∧
    WritesReg (.slli d n) s 2 d (s.reg d <<< n) ∧
    WritesReg (.sra d r) s 2 d ((s.reg d).sshiftRight' (s.reg r &&& 31)) ∧
    WritesReg (.sra3 d r imm) s 4 d ((s.reg r).sshiftRight' (imm &&& 31)) ∧
    WritesReg (.srai d n) s 2 d ((s.reg d).sshiftRight' n) ∧
    WritesReg (.srl d r) s 2 d (s.reg d >>> (s.reg r &&& 31)) ∧
    WritesReg (.srl3 d r imm) s 4 d (s.reg r >>> (imm &&& 31)) ∧
    WritesReg (.srli d n) s 2 d (s.reg d >>> n)

/-- O38. BC, BNC, BRA, BL in both forms and the compare branches, when their condition holds, go to (pc and 0xFFFFFFFC)
plus the sign-extended displacement shifted left by two, modulo 2^32; a condition that fails goes on to the next
instruction; nothing else changes but R14 for BL. The wrap is the spec's decision D12 (entry 23). -/
def Obligations.PcRelativeTargets : Prop :=
  ∀ (a b : Reg) (p8 : BitVec 8) (p16 : BitVec 16) (p24 : BitVec 24) (s : State),
    let base := s.pc &&& 0xFFFFFFFC#32
    let to8 := base + (p8.signExtend 32 <<< 2)
    let to16 := base + (p16.signExtend 32 <<< 2)
    let to24 := base + (p24.signExtend 32 <<< 2)
    GoesTo (.bc8 p8) s [] (if s.c then to8 else s.pc + 2) (fun _ => True) ∧
    GoesTo (.bc24 p24) s [] (if s.c then to24 else s.pc + 4) (fun _ => True) ∧
    GoesTo (.bnc8 p8) s [] (if s.c then s.pc + 2 else to8) (fun _ => True) ∧
    GoesTo (.bnc24 p24) s [] (if s.c then s.pc + 4 else to24) (fun _ => True) ∧
    GoesTo (.bra8 p8) s [] to8 (fun _ => True) ∧ GoesTo (.bra24 p24) s [] to24 (fun _ => True) ∧
    GoesTo (.bl8 p8) s [14] to8 (fun _ => True) ∧ GoesTo (.bl24 p24) s [14] to24 (fun _ => True) ∧
    GoesTo (.beq a b p16) s [] (if s.reg a = s.reg b then to16 else s.pc + 4) (fun _ => True) ∧
    GoesTo (.bne a b p16) s [] (if s.reg a = s.reg b then s.pc + 4 else to16) (fun _ => True) ∧
    GoesTo (.beqz a p16) s [] (if s.reg a = 0 then to16 else s.pc + 4) (fun _ => True) ∧
    GoesTo (.bnez a p16) s [] (if s.reg a = 0 then s.pc + 4 else to16) (fun _ => True) ∧
    GoesTo (.bltz a p16) s [] (if (s.reg a).msb then to16 else s.pc + 4) (fun _ => True) ∧
    GoesTo (.bgez a p16) s [] (if (s.reg a).msb then s.pc + 4 else to16) (fun _ => True) ∧
    GoesTo (.blez a p16) s [] (if (s.reg a).msb ∨ s.reg a = 0 then to16 else s.pc + 4) (fun _ => True) ∧
    GoesTo (.bgtz a p16) s [] (if (s.reg a).msb ∨ s.reg a = 0 then s.pc + 4 else to16) (fun _ => True)

/-- O39. BL in both forms and JL write (pc and 0xFFFFFFFC) + 4 to R14, in the upper and in the lower halfword alike; JL
goes to the old value of its register with the low two bits cleared, also for JL R14 (decision D23, entry 27); nothing
else changes. -/
def Obligations.ReturnAddress : Prop :=
  ∀ (r : Reg) (p8 : BitVec 8) (p24 : BitVec 24) (s : State),
    GoesTo (.bl8 p8) s [14] ((s.pc &&& 0xFFFFFFFC#32) + (p8.signExtend 32 <<< 2))
      (fun t => t.reg 14 = (s.pc &&& 0xFFFFFFFC#32) + 4) ∧
    GoesTo (.bl24 p24) s [14] ((s.pc &&& 0xFFFFFFFC#32) + (p24.signExtend 32 <<< 2))
      (fun t => t.reg 14 = (s.pc &&& 0xFFFFFFFC#32) + 4) ∧
    GoesTo (.jl r) s [14] (s.reg r &&& 0xFFFFFFFC#32) (fun t => t.reg 14 = (s.pc &&& 0xFFFFFFFC#32) + 4)

/-- O40. JMP changes only the program counter, NOP only goes on to the next instruction. -/
def Obligations.JumpAndNop : Prop :=
  ∀ (r : Reg) (s : State),
    GoesTo (.jmp r) s [] (BitVec.ofNat 32 ((s.reg r).toNat / 4 * 4)) (fun _ => True) ∧
    Completes .nop s 2 [] [] [] (fun _ => True)

/-- O41. MULHI, MULLO write the product of the signed halfwords shifted left 16, MULWHI, MULWLO that of a word and a
halfword; the MAC forms add it to the accumulator's signed value; all modulo 2^56 (the wrap of a sum is decision D24,
entry 28). -/
def Obligations.AccumulatorProducts : Prop :=
  ∀ (a b : Reg) (s : State),
    let w := (s.reg a).toInt
    let hi1 := ((s.reg a).extractLsb' 16 16).toInt
    let lo1 := ((s.reg a).extractLsb' 0 16).toInt
    let hi2 := ((s.reg b).extractLsb' 16 16).toInt
    let lo2 := ((s.reg b).extractLsb' 0 16).toInt
    WritesAcc (.mulhi a b) s (hi1 * hi2 * 2 ^ 16) ∧ WritesAcc (.mullo a b) s (lo1 * lo2 * 2 ^ 16) ∧
    WritesAcc (.mulwhi a b) s (w * hi2) ∧ WritesAcc (.mulwlo a b) s (w * lo2) ∧
    WritesAcc (.machi a b) s (s.acc.toInt + hi1 * hi2 * 2 ^ 16) ∧
    WritesAcc (.maclo a b) s (s.acc.toInt + lo1 * lo2 * 2 ^ 16) ∧
    WritesAcc (.macwhi a b) s (s.acc.toInt + w * hi2) ∧ WritesAcc (.macwlo a b) s (s.acc.toInt + w * lo2)

/-- O42. MVFACHI, MVFACLO, MVFACMI deliver bits 63:32, 31:0, 47:16 of the accumulator sign-extended to 64 bits; MVTACHI
writes bits 55:32 from the low 24 bits of the register, MVTACLO bits 31:0; the rest of the accumulator and everything
else are unchanged. -/
def Obligations.AccumulatorMoves : Prop :=
  ∀ (r : Reg) (s : State),
    Completes (.mvfachi r) s 2 [r] [] [] (fun t => (t.reg r).toInt = s.acc.toInt / 2 ^ 32) ∧
    Completes (.mvfaclo r) s 2 [r] [] [] (fun t => (t.reg r).toNat = s.acc.toNat % 2 ^ 32) ∧
    Completes (.mvfacmi r) s 2 [r] [] [] (fun t => (t.reg r).toNat = s.acc.toNat / 2 ^ 16 % 2 ^ 32) ∧
    Completes (.mvtachi r) s 2 [] [.acc] [] (fun t =>
      t.acc.toNat = (s.reg r).toNat % 2 ^ 24 * 2 ^ 32 + s.acc.toNat % 2 ^ 32) ∧
    Completes (.mvtaclo r) s 2 [] [.acc] [] (fun t =>
      t.acc.toNat = s.acc.toNat / 2 ^ 32 * 2 ^ 32 + (s.reg r).toNat)

/-- O43. With tmp twice the accumulator's signed value plus half of the unit (2^16 for RAC, 2^32 for RACH), the
accumulator becomes the positive limit above it, -2^47 below that, else tmp with the bits under the unit cleared; its
signed value is that number exactly; nothing else changes. -/
def Obligations.AccumulatorRounds : Prop :=
  ∀ s : State,
    let rac := s.acc.toInt * 2 + 0x8000
    let rach := s.acc.toInt * 2 + 0x80000000
    Completes .rac s 2 [] [.acc] [] (fun t => t.acc.toInt =
      if 0x00007FFFFFFF0000 < rac then 0x00007FFFFFFF0000
      else if rac < -2 ^ 47 then -2 ^ 47 else rac / 2 ^ 16 * 2 ^ 16) ∧
    Completes .rach s 2 [] [.acc] [] (fun t => t.acc.toInt =
      if 0x00007FFF00000000 < rach then 0x00007FFF00000000
      else if rach < -2 ^ 47 then -2 ^ 47 else rach / 2 ^ 32 * 2 ^ 32)

/-- O44. For all twelve FPU instructions, with the result and exceptions their procedure gives: where an exception forces
the EIT, the FPE is taken (from an even program counter) with the cause bits set, Rdest, flags, accumulator and memory
unchanged; else there is a result, Rdest takes it, the cause bits are exactly the exceptions raised and their flags
are set. For FCMP and FCMPE the procedure takes some word f for the bits the spec leaves open (decision D28, entry
18). BPC and PSW at the entry are decisions D30, D32 (entries 9, 8). That an EIT entry keeps the LOCK bit is R63's
choice (entry 5). -/
def Obligations.FpuFrame : Prop :=
  ∀ (d a b : Reg) (s : State),
    let rm := fpsrMode s.fpsr
    FpuEnds (.fadd d a b) s d (addCore s.fpsr (s.reg a) (s.reg b) rm false) ∧
    FpuEnds (.fsub d a b) s d (addCore s.fpsr (s.reg a) (s.reg b) rm true) ∧
    FpuEnds (.fmul d a b) s d (mulCore s.fpsr (s.reg a) (s.reg b) rm) ∧
    FpuEnds (.fdiv d a b) s d (divCore s.fpsr (s.reg a) (s.reg b) rm) ∧
    FpuEnds (.fmadd d a b) s d (maddCore s.fpsr (s.reg d) (s.reg a) (s.reg b) false) ∧
    FpuEnds (.fmsub d a b) s d (maddCore s.fpsr (s.reg d) (s.reg a) (s.reg b) true) ∧
    FpuEnds (.itof d a) s d (floatOfInteger s.fpsr (s.reg a).toInt) ∧
    FpuEnds (.utof d a) s d (floatOfInteger s.fpsr (s.reg a).toNat) ∧
    FpuEnds (.ftoi d a) s d (integerOfFloat s.fpsr (s.reg a) (2 ^ 31)) ∧
    FpuEnds (.ftos d a) s d (integerOfFloat s.fpsr (s.reg a) (2 ^ 15)) ∧
    (∃ f, FpuEnds (.fcmp d a b) s d (compareCore s.fpsr (s.reg a) (s.reg b) false f)) ∧
    (∃ f, FpuEnds (.fcmpe d a b) s d (compareCore s.fpsr (s.reg a) (s.reg b) true f))

/-- O45. With EX, EU, EZ, EO, EV all 0 and DN = 1, each of the twelve FPU instructions completes for every operand: only
Rdest, the cause bits and flags of FPSR may change, and no flag is cleared. -/
def Obligations.FpuMaskedCompletes : Prop :=
  ∀ (d a b : Reg) (s : State), s.fpsr &&& 0x00007D00#32 = 0x00000100#32 →
    ∀ i ∈ ([.fadd d a b, .fsub d a b, .fmul d a b, .fdiv d a b, .fmadd d a b, .fmsub d a b, .itof d a, .utof d a,
        .ftoi d a, .ftos d a, .fcmp d a b, .fcmpe d a b] : List Instr),
      Completes i s 4 [d] [.fpsr] [] (fun t => FpsrRestKept s.fpsr t.fpsr ∧
        ∀ k, 26 ≤ k → k ≤ 30 → s.fpsr.getLsbD k = true → t.fpsr.getLsbD k = true)

/-- O46. For operands that are zero, normalized or infinite (or denormalized with DN = 1, counting as zero): equal
operands, the two zeros among them, deliver 0x00000000; less a word with bit 31 set; greater a word that is neither of
these nor of the unordered pattern. Only these sets are fixed (decision D28, entry 18). No exception is raised. -/
def Obligations.ComparisonOrder : Prop :=
  ∀ (d a b : Reg) (s : State), fpIsNan (s.reg a) = false → fpIsNan (s.reg b) = false →
    (s.fpsr.getLsbD 8 = true ∨ (fpClass (s.reg a) ≠ .denormal ∧ fpClass (s.reg b) ≠ .denormal)) →
    let extended : Word → WithBot (WithTop ℚ) := fun w =>
      if fpClass w = .inf then (if fpSign w then ⊥ else ((⊤ : WithTop ℚ) : WithBot (WithTop ℚ)))
      else (((if fpClass w = .denormal then 0 else fpValue w : ℚ) : WithTop ℚ) : WithBot (WithTop ℚ))
    let x := extended (s.reg a)
    let y := extended (s.reg b)
    ∀ i ∈ ([.fcmp d a b, .fcmpe d a b] : List Instr), ∃ v,
      FpuCompletes i s d v noExceptions ∧ (x = y → v = 0) ∧ (x < y → v.getLsbD 31 = true) ∧
        (y < x → v.getLsbD 31 = false ∧ v ≠ 0 ∧ v.extractLsb' 22 9 ≠ 0x1FF#9)

/-- O47. With a NaN operand: FCMP raises IVLD for an SNaN and nothing for a QNaN, FCMPE raises IVLD for either; with EV =
0 the word delivered has bit 31 = 0 and bits 30:22 all 1, with EV = 1 and IVLD the FPE is taken. With no NaN, a
denormalized operand and DN = 0 the FPE is taken with UIPL (the order of the cases is decision D25, entry 22; the
words of the unordered result are D28, entry 18; BPC and PSW at the entry are D30 and D32, entries 9 and 8). That an
EIT entry keeps the LOCK bit is R63's choice (entry 5). -/
def Obligations.ComparisonUnordered : Prop :=
  ∀ (d a b : Reg) (s : State), s.pc.getLsbD 0 = false →
    let snan := fpClass (s.reg a) = .snan ∨ fpClass (s.reg b) = .snan
    let qnan := fpClass (s.reg a) = .qnan ∨ fpClass (s.reg b) = .qnan
    let unordered : Word → Prop := fun v => v.getLsbD 31 = false ∧ v.extractLsb' 22 9 = 0x1FF#9
    (snan → s.fpsr.getLsbD 10 = false →
      (∃ v, unordered v ∧ FpuCompletes (.fcmp d a b) s d v { ivld := true }) ∧
      (∃ v, unordered v ∧ FpuCompletes (.fcmpe d a b) s d v { ivld := true })) ∧
    (snan → s.fpsr.getLsbD 10 = true →
      TakesFpe (.fcmp d a b) s { ivld := true } ∧ TakesFpe (.fcmpe d a b) s { ivld := true }) ∧
    (¬ snan → qnan → ∃ v, unordered v ∧ FpuCompletes (.fcmp d a b) s d v noExceptions) ∧
    (¬ snan → qnan → s.fpsr.getLsbD 10 = false →
      ∃ v, unordered v ∧ FpuCompletes (.fcmpe d a b) s d v { ivld := true }) ∧
    (¬ snan → qnan → s.fpsr.getLsbD 10 = true → TakesFpe (.fcmpe d a b) s { ivld := true }) ∧
    (¬ snan → ¬ qnan → (fpClass (s.reg a) = .denormal ∨ fpClass (s.reg b) = .denormal) →
      s.fpsr.getLsbD 8 = false →
      TakesFpe (.fcmp d a b) s { uipl := true } ∧ TakesFpe (.fcmpe d a b) s { uipl := true })

/-- O48. For the four operations of two operands, with EV = 0: two SNaN give the second quieted, one SNaN itself quieted,
each with IVLD; two QNaN give the second, one QNaN itself, without exception; an invalid operation without a NaN gives
0x7FFFFFFF. For FMADD and FMSUB a QNaN in Rdest is kept, an SNaN there is quieted with IVLD, else the rules of the two
sources hold. With EV = 1 an SNaN in any operand of the six leaves every register unchanged, R15 too since the FPE
entry keeps SM (decision D32, entry 8). A NaN before a denormalized operand is decision D25 (entry 22). Quieting sets
bit 22 alone. -/
def Obligations.NanResults : Prop :=
  (∀ (d a b : Reg) (s : State),
    let x := s.reg a
    let y := s.reg b
    ∀ i ∈ ([.fadd d a b, .fsub d a b, .fmul d a b, .fdiv d a b] : List Instr),
      (s.fpsr.getLsbD 10 = false →
        (fpClass y = .snan → FpuCompletes i s d (y ||| 0x00400000#32) { ivld := true }) ∧
        (fpClass x = .snan → fpClass y ≠ .snan → FpuCompletes i s d (x ||| 0x00400000#32) { ivld := true }) ∧
        (fpIsNan x = false → fpIsNan y = false → ∀ t, exec i s = .next t → t.fpsr.getLsbD 2 = true →
          t.reg d = 0x7FFFFFFF#32)) ∧
      (s.fpsr.getLsbD 10 = true → (fpClass x = .snan ∨ fpClass y = .snan) →
        ∃ t, exec i s = .next t ∧ ∀ r, t.reg r = s.reg r) ∧
      (fpClass x ≠ .snan → fpClass y = .qnan → FpuCompletes i s d y noExceptions) ∧
      (fpClass x = .qnan → fpIsNan y = false → FpuCompletes i s d x noExceptions)) ∧
  (∀ (d a b : Reg) (s : State), s.fpsr.getLsbD 10 = true →
    (fpClass (s.reg d) = .snan ∨ fpClass (s.reg a) = .snan ∨ fpClass (s.reg b) = .snan) →
    ∀ i ∈ ([.fmadd d a b, .fmsub d a b] : List Instr), ∃ t, exec i s = .next t ∧ ∀ r, t.reg r = s.reg r) ∧
  (∀ (fpsr d x y v : Word) (sub : Bool), (maddCore fpsr d x y sub).val = some v →
      (fpClass d = .qnan → v = d) ∧
      (fpClass d = .snan → v = d ||| 0x00400000#32 ∧ (maddCore fpsr d x y sub).raised.ivld = true) ∧
      (fpIsNan d = false → (fpIsNan x = true ∨ fpIsNan y = true) →
        mulCore fpsr x y .towardZero = ⟨some v, (maddCore fpsr d x y sub).raised⟩) ∧
      (fpIsNan d = false → fpIsNan x = false → fpIsNan y = false →
        (maddCore fpsr d x y sub).raised.ivld = true → v = 0x7FFFFFFF#32))

/-- O49. A normalized dividend and a zero divisor: with EZ = 0 the result is the infinity whose sign is the XOR of the
signs, with EZ = 1 the EIT is taken and every register is unchanged, R15 too since the entry keeps SM (decision D32,
entry 8). Zero by zero raises IVLD instead, infinity by zero gives infinity and raises nothing. No other operation
raises DIV0. -/
def Obligations.ZeroDivide : Prop :=
  (∀ (d a b : Reg) (s : State), fpClass (s.reg b) = .zero →
    let infinity : Word := BitVec.ofBool (fpSign (s.reg a) ^^ fpSign (s.reg b)) ++ 0x7F800000#31
    (fpClass (s.reg a) = .normal → s.fpsr.getLsbD 12 = false →
      FpuCompletes (.fdiv d a b) s d infinity { div0 := true }) ∧
    (fpClass (s.reg a) = .normal → s.fpsr.getLsbD 12 = true →
      ∃ t, exec (.fdiv d a b) s = .next t ∧ t.pc = eitEntryAddress s.vectors .fpe ∧ (∀ r, t.reg r = s.reg r) ∧
        CausesAre t.fpsr { div0 := true }) ∧
    (fpClass (s.reg a) = .zero → s.fpsr.getLsbD 10 = false →
      FpuCompletes (.fdiv d a b) s d 0x7FFFFFFF#32 { ivld := true }) ∧
    (fpClass (s.reg a) = .inf → FpuCompletes (.fdiv d a b) s d infinity noExceptions)) ∧
  (∀ (fpsr d x y f : Word) (m : RoundMode) (neg quietInvalid : Bool) (n limit : Int),
    (addCore fpsr x y m neg).raised.div0 = false ∧ (mulCore fpsr x y m).raised.div0 = false ∧
      (maddCore fpsr d x y neg).raised.div0 = false ∧ (floatOfInteger fpsr n).raised.div0 = false ∧
      (integerOfFloat fpsr x limit).raised.div0 = false ∧
      (compareCore fpsr x y quietInvalid f).raised.div0 = false)

/-- O50. For a nonzero rational q and v its rounded value: the significand has exactly 24 bits, the sign is that of q, v =
q exactly where the result is not inexact; nearest is within half a unit, toward zero never larger in magnitude,
toward plus infinity never below, toward minus infinity never above q, each within one unit. The algorithm is the
spec's general knowledge G7 (entry 22). -/
def Obligations.RoundingLaws : Prop :=
  ∀ (q : ℚ) (mode : RoundMode), q ≠ 0 →
    let r := round24 q mode
    let v : ℚ := (if r.sign then -1 else 1) * r.sig * (2 : ℚ) ^ (r.exp - 23)
    2 ^ 23 ≤ r.sig ∧ r.sig < 2 ^ 24 ∧ (r.sign = true ↔ q < 0) ∧ (r.inexact = false ↔ v = q) ∧
      |v - q| < (2 : ℚ) ^ (r.exp - 23) ∧
      (mode = .nearest → |v - q| ≤ (2 : ℚ) ^ (r.exp - 24)) ∧
      (mode = .towardZero → |v| ≤ |q|) ∧ (mode = .towardPlus → q ≤ v) ∧ (mode = .towardMinus → v ≤ q)

/-- O51. For every operand and every FPSR: NaN and denormalized operands end as screened; infinities, zeros and their
signs by the operand tables; below 2^-126 UDF with the signed zero, alone, or with UIPL, by EU and DN; beyond MAX the
OVF word by RM and sign with OVF and IXCT, or OVF alone with EO = 1; else the word the mode rounds to among all finite
ones, IXCT exactly where it differs. Each then ends by the frame. Decisions D25, D26, D27 and G7, G8 are entry 22; BPC
and PSW at an entry are D30, D32 (entries 9, 8). That an EIT entry keeps the LOCK bit is R63's choice (entry 5). -/
def Obligations.ArithmeticResults : Prop :=
  ∀ (d a b : Reg) (s : State),
    let x := flushedOperand s.fpsr (s.reg a)
    let y := flushedOperand s.fpsr (s.reg b)
    let screened := Screened s.fpsr (s.reg a) (s.reg b)
    (∃ r, screened (SumEnds s.fpsr x y) r ∧ FpuEnds (.fadd d a b) s d r) ∧
    (∃ r, screened (SumEnds s.fpsr x (y ^^^ 0x80000000#32)) r ∧ FpuEnds (.fsub d a b) s d r) ∧
    (∃ r, screened (ProductEnds s.fpsr (rmBits s.fpsr) x y) r ∧ FpuEnds (.fmul d a b) s d r) ∧
    (∃ r, screened (QuotientEnds s.fpsr x y) r ∧ FpuEnds (.fdiv d a b) s d r)

/-- O52. The integer 0 gives +0 without exception in every mode. Any other integer (signed for ITOF, unsigned for UTOF)
gives the word that RM rounds it to, with IXCT exactly where its value is not the integer: then the FPE is taken where
EX = 1. Up to 2^24 in magnitude the word has that integer as its value and nothing but Rdest and the cause bits
changes. The rounding is the spec's general knowledge G7 (entry 22); BPC and PSW at the entry are D30, D32 (entries 9,
8). That an EIT entry keeps the LOCK bit is R63's choice (entry 5). -/
def Obligations.IntegerToFloat : Prop :=
  ∀ (d r : Reg) (s : State),
    let signed : ℚ := (s.reg r).toInt
    let unsigned : ℚ := (s.reg r).toNat
    (s.reg r = 0 → FpuCompletes (.itof d r) s d 0x00000000#32 noExceptions ∧
      FpuCompletes (.utof d r) s d 0x00000000#32 noExceptions) ∧
    (s.reg r ≠ 0 →
      (∃ w, RoundsTo (rmBits s.fpsr) signed w ∧
        FpuEnds (.itof d r) s d ⟨some w, { ixct := decide (fpValue w ≠ signed) }⟩) ∧
      (∃ w, RoundsTo (rmBits s.fpsr) unsigned w ∧
        FpuEnds (.utof d r) s d ⟨some w, { ixct := decide (fpValue w ≠ unsigned) }⟩)) ∧
    ((s.reg r).toInt.natAbs ≤ 2 ^ 24 →
      ∃ v, FpuCompletes (.itof d r) s d v noExceptions ∧ fpValue v = signed) ∧
    ((s.reg r).toNat ≤ 2 ^ 24 →
      ∃ v, FpuCompletes (.utof d r) s d v noExceptions ∧ fpValue v = unsigned)

/-- O53. A normalized operand whose integer part fits the range (32 or 16 bits, signed) gives the integer of the operand's
sign with |Rdest| ≤ |operand| < |Rdest| + 1, IXCT exactly where they differ. Out of range, infinite or NaN: the end of
the range that the sign selects, with IVLD. Where EX or EV forces it the FPE is taken instead. A zero, and a
denormalized operand with DN = 1, gives 0 without exception; with DN = 0 a denormalized operand takes the FPE with
UIPL. BPC and PSW at the entry are decisions D30, D32 (entries 9, 8). That an EIT entry keeps the LOCK bit is R63's
choice (entry 5). -/
def Obligations.FloatToInteger : Prop :=
  ∀ (d r : Reg) (s : State),
    let x := s.reg r
    ∀ p ∈ ([(.ftoi d r, 2 ^ 31), (.ftos d r, 2 ^ 15)] : List (Instr × Int)),
      (fpClass x = .normal → -(p.2 : ℚ) - 1 < fpValue x → fpValue x < p.2 →
        ∃ v inexact, FpuEnds p.1 s d ⟨some v, { ixct := inexact }⟩ ∧ |(v.toInt : ℚ)| ≤ |fpValue x| ∧
          |fpValue x| < |(v.toInt : ℚ)| + 1 ∧ 0 ≤ v.toInt * fpValue x ∧
          (inexact = true ↔ (v.toInt : ℚ) ≠ fpValue x)) ∧
      ((fpClass x = .inf ∨ fpIsNan x = true ∨
          (fpClass x = .normal ∧ (fpValue x ≤ -(p.2 : ℚ) - 1 ∨ (p.2 : ℚ) ≤ fpValue x))) →
        ∃ v : Word, FpuEnds p.1 s d ⟨some v, { ivld := true }⟩ ∧
          v.toInt = if x.getLsbD 31 then -p.2 else p.2 - 1) ∧
      (fpClass x = .zero → FpuCompletes p.1 s d 0x00000000#32 noExceptions) ∧
      (fpClass x = .denormal → s.fpsr.getLsbD 8 = true → FpuCompletes p.1 s d 0x00000000#32 noExceptions) ∧
      (fpClass x = .denormal → s.fpsr.getLsbD 8 = false → s.pc.getLsbD 0 = false →
        TakesFpe p.1 s { uipl := true })

/-- O54. For every operand, Rdest and FPSR: step 1 is the product rounded toward 0 whatever RM is, its OVF immediate by
RM; step 2 adds it to Rdest (FMSUB: with its sign inverted), rounded by RM, but after an overflow with a finite Rdest
delivers the OVF immediate (FMSUB: inverted, D29); both steps' exceptions are raised. With a product under RM without
exception they give what FADD of it and Rdest, or FSUB of Rdest and it, gives. The order of the classes, the union and
D26, D27, D29, G7, G8 are entry 22; BPC and PSW at an entry are D30, D32 (entries 9, 8). That an EIT entry keeps the
LOCK bit is R63's choice (entry 5). -/
def Obligations.MultiplyAddResults : Prop :=
  (∀ (d a b : Reg) (s : State) (subtract : Bool),
    let x := flushedOperand s.fpsr (s.reg a)
    let y := flushedOperand s.fpsr (s.reg b)
    ∃ r1 r, Screened s.fpsr (s.reg a) (s.reg b) (ProductEnds s.fpsr 1#2 x y) r1 ∧
      AddendEnds s.fpsr (s.reg d) subtract r1 r ∧
      FpuEnds (if subtract then .fmsub d a b else .fmadd d a b) s d r) ∧
  (∀ fpsr d x y p : Word, mulCore fpsr x y (fpsrMode fpsr) = ⟨some p, noExceptions⟩ →
    maddCore fpsr d x y false = addCore fpsr p d (fpsrMode fpsr) false ∧
    ((fpClass d ≠ .qnan ∨ fpClass p ≠ .qnan) → maddCore fpsr d x y true = addCore fpsr d p (fpsrMode fpsr) true))

/-- O55. With DN = 1 the arithmetic results do not change when a denormalized operand is replaced by the zero of its sign.
With DN = 0 a denormalized operand and no NaN raises UIPL alone, before any arithmetic case (the order is decision
D25, entry 22), and gives no result. -/
def Obligations.DenormalAsZero : Prop :=
  ∀ (fpsr x y : Word) (m : RoundMode) (neg : Bool),
    let flush : Word → Word := fun w => if fpClass w = .denormal then w &&& 0x80000000#32 else w
    (fpsr.getLsbD 8 = true →
      addCore fpsr x y m neg = addCore fpsr (flush x) (flush y) m neg ∧
      mulCore fpsr x y m = mulCore fpsr (flush x) (flush y) m ∧
      divCore fpsr x y m = divCore fpsr (flush x) (flush y) m) ∧
    (fpsr.getLsbD 8 = false → fpIsNan x = false → fpIsNan y = false →
      (fpClass x = .denormal ∨ fpClass y = .denormal) →
      ∀ r ∈ [addCore fpsr x y m neg, mulCore fpsr x y m, divCore fpsr x y m], r = ⟨none, { uipl := true }⟩)

/-- O56. Where executing an instruction changes C, it is one of ADDV, ADDV3, ADDX, SUBV, SUBX, CMP, CMPI, CMPU, CMPUI,
BTST, SETPSW, CLRPSW, MVTC to PSW, RTE, TRAP, or it took the address or the floating-point exception, with the old C
in BC. What those two entries leave in BPC and PSW are decisions D30 and D31 (entry 9) and D32 (entry 8). That an EIT
entry keeps the LOCK bit is R63's choice (entry 5). -/
def Obligations.ConditionBitWriters : Prop :=
  ∀ (i : Instr) (s t : State), s.pc.getLsbD 0 = false → exec i s = .next t → t.c ≠ s.c →
    (∃ d r, i = .addv d r ∨ i = .addx d r ∨ i = .subv d r ∨ i = .subx d r ∨ i = .cmp d r ∨ i = .cmpu d r) ∨
    (∃ d r imm, i = .addv3 d r imm ∨ i = .cmpi r imm ∨ i = .cmpui r imm) ∨ (∃ p r, i = .btst p r) ∨
    (∃ imm, i = .setpsw imm ∨ i = .clrpsw imm) ∨ (∃ r, i = .mvtc r 0) ∨ i = .rte ∨ (∃ n, i = .trap n) ∨
    EntersEit .ae s.pc s t ∨ EntersEit .fpe (s.pc + 4) s t

/-- O57. Where executing an instruction changes FPSR it is an FPU instruction or MVTC to FPSR, and no FPU instruction
clears a flag; a change of the accumulator needs MUL, a DSP product, MVTAC, RAC or RACH; of the LOCK bit LOCK, UNLOCK,
BSET or BCLR; of a byte of memory a store, UNLOCK, BSET or BCLR. The entry addresses and the environment's requests
never change. That an EIT entry and RTE keep the LOCK bit is R63's choice (entry 5). -/
def Obligations.SpecialStateWriters : Prop :=
  ∀ (i : Instr) (s t : State), exec i s = .next t →
    (t.fpsr ≠ s.fpsr → (∃ r, i = .mvtc r 7) ∨
      ((∃ d a b, i = .fadd d a b ∨ i = .fsub d a b ∨ i = .fmul d a b ∨ i = .fdiv d a b ∨ i = .fmadd d a b ∨
          i = .fmsub d a b ∨ i = .fcmp d a b ∨ i = .fcmpe d a b ∨ i = .itof d a ∨ i = .utof d a ∨ i = .ftoi d a ∨
          i = .ftos d a) ∧
        ∀ k, 26 ≤ k → k ≤ 30 → s.fpsr.getLsbD k = true → t.fpsr.getLsbD k = true)) ∧
    (t.acc ≠ s.acc → i = .rac ∨ i = .rach ∨ ∃ a b, i = .mul a b ∨ i = .mulhi a b ∨ i = .mullo a b ∨
      i = .mulwhi a b ∨ i = .mulwlo a b ∨ i = .machi a b ∨ i = .maclo a b ∨ i = .macwhi a b ∨ i = .macwlo a b ∨
      i = .mvtachi a ∨ i = .mvtaclo a) ∧
    (t.lockBit ≠ s.lockBit → ∃ p disp a b, i = .lock a b ∨ i = .unlock a b ∨ i = .bset p disp b ∨
      i = .bclr p disp b) ∧
    (t.mem ≠ s.mem → ∃ p disp a b, i = .st a b ∨ i = .stPreInc a b ∨ i = .stPreDec a b ∨ i = .stDisp a disp b ∨
      i = .stb a b ∨ i = .stbDisp a disp b ∨ i = .sth a b ∨ i = .sthPostInc a b ∨ i = .sthDisp a disp b ∨
      i = .unlock a b ∨ i = .bset p disp b ∨ i = .bclr p disp b) ∧
    t.vectors = s.vectors ∧ t.intRequests = s.intRequests

/-- O58. From a halfword-aligned program counter, a step that leads to an address that is 2 modulo 4 comes from the upper
halfword of the same word, by going on over a 16-bit instruction; every control transfer, EIT entry and return lands
on a word. That the entry addresses are word-aligned is decision D3 (entry 6). -/
def Obligations.LowerSlotOnlySequentially : Prop :=
  ∀ s t : State, s.pc.getLsbD 0 = false → step s = .next t → t.pc.getLsbD 1 = true →
    s.pc.getLsbD 1 = false ∧ t.pc = s.pc + 2 ∧ ∃ i, s.fetchInstr = .ok i ∧ i.isLong = false

/-- O59. From a state whose program counter and BPC are even, whose PSW and FPSR hold 0 where nothing is placed and whose
memory is in canonical form, every step that answers a next state answers such a state, whatever the free values are.
That PSW and FPSR keep 0 there whatever MVTC writes is decision D13 (entry 21). -/
def Obligations.LegalKept : Prop :=
  ∀ s t : State, s.Legal → step s = .next t → t.Legal

/-- O60. The state after reset is legal; every bit of its PSW other than BSM, BIE, BC is 0, so R15 is SPI, interrupts are
masked and C is 0; the program counter is 0, FPSR reads 0x00000100, and CBR reads 0. Of BSM, BIE, BC, which the spec
leaves undefined, it says nothing. -/
def Obligations.ResetState : Prop :=
  State.reset.Legal ∧ State.reset.psw &&& 0xFFFF3EFF#32 = 0 ∧ State.reset.sm = false ∧ State.reset.ie = false ∧
    State.reset.c = false ∧ State.reset.reg 15 = State.reset.spi ∧ State.reset.pc = 0x00000000#32 ∧
    State.reset.fpsrRead = 0x00000100#32 ∧ State.reset.cbr = 0x00000000#32
end

