-- ==== Sys2Proof/Laws/Decode.lean ====
section
/-! SUPPORT. Fields and bytes of halfwords, once, in both directions: the columns of a halfword, the halfwords of bytes,
the fields that span two columns, and what the decoder does with one instruction's bytes. -/

namespace Sys2Proof

theorem append16 (c0 c1 c2 c3 : BitVec 4) :
    halfOf c0 c1 c2 c3 = (c0 ++ c1 ++ c2 ++ c3 : BitVec (4 + 4 + 4 + 4)) := rfl

/-- The bits of a halfword by its columns. -/
theorem getLsbD_halfOf (c0 c1 c2 c3 : BitVec 4) (k : Nat) :
    (halfOf c0 c1 c2 c3).getLsbD k =
      if k < 4 then c3.getLsbD k else if k < 8 then c2.getLsbD (k - 4) else if k < 12 then c1.getLsbD (k - 8)
      else c0.getLsbD (k - 12) := by
  rw [append16]
  simp only [BitVec.getLsbD_append]
  split_ifs <;> first | rfl | omega

@[simp] theorem column_halfOf_12 (c0 c1 c2 c3 : BitVec 4) : column (halfOf c0 c1 c2 c3) 12 = c0 := by
  apply BitVec.eq_of_getLsbD_eq
  intro k hk
  rw [column, BitVec.getLsbD_extractLsb', getLsbD_halfOf]
  interval_cases k <;> simp

@[simp] theorem column_halfOf_8 (c0 c1 c2 c3 : BitVec 4) : column (halfOf c0 c1 c2 c3) 8 = c1 := by
  apply BitVec.eq_of_getLsbD_eq
  intro k hk
  rw [column, BitVec.getLsbD_extractLsb', getLsbD_halfOf]
  interval_cases k <;> simp

@[simp] theorem column_halfOf_4 (c0 c1 c2 c3 : BitVec 4) : column (halfOf c0 c1 c2 c3) 4 = c2 := by
  apply BitVec.eq_of_getLsbD_eq
  intro k hk
  rw [column, BitVec.getLsbD_extractLsb', getLsbD_halfOf]
  interval_cases k <;> simp

@[simp] theorem column_halfOf_0 (c0 c1 c2 c3 : BitVec 4) : column (halfOf c0 c1 c2 c3) 0 = c3 := by
  apply BitVec.eq_of_getLsbD_eq
  intro k hk
  rw [column, BitVec.getLsbD_extractLsb', getLsbD_halfOf]
  interval_cases k <;> simp

/-- A halfword is made of its columns. -/
theorem halfOf_columns (h : Half) : halfOf (column h 12) (column h 8) (column h 4) (column h 0) = h := by
  apply BitVec.eq_of_getLsbD_eq
  intro k hk
  rw [getLsbD_halfOf]
  simp only [column, BitVec.getLsbD_extractLsb']
  split_ifs <;> interval_cases k <;> simp_all

/-- The top bit of a halfword is that of its first column. -/
@[simp] theorem msb_halfOf (c0 c1 c2 c3 : BitVec 4) : (halfOf c0 c1 c2 c3).msb = c0.msb := by
  rw [BitVec.msb_eq_getLsbD_last, BitVec.msb_eq_getLsbD_last, getLsbD_halfOf]
  simp

/-- A halfword's two bytes are read back as the halfword (R85). -/
@[simp] theorem halves_bytes (h : Half) (rest : List Byte) :
    halves (h.extractLsb' 8 8 :: h.extractLsb' 0 8 :: rest) = h :: halves rest := by
  simp only [halves]
  congr 1
  show (BitVec.extractLsb' 8 8 h ++ BitVec.extractLsb' 0 8 h : BitVec (8 + 8)) = h
  apply BitVec.eq_of_getLsbD_eq
  intro k hk
  simp only [BitVec.getLsbD_extractLsb', BitVec.getLsbD_append]
  interval_cases k <;> simp

@[simp] theorem toFin_regField (r : Reg) : (regField r).toFin = r := rfl
@[simp] theorem regField_zero : regField 0 = 0#4 := rfl

/-- A bit position's field has its top bit 0 and holds the position below it. -/
@[simp] theorem getElem_bitField (p : Fin 8) : (bitField p)[3] = false := by
  revert p; decide
@[simp] theorem toFin_bitField (p : Fin 8) : ((bitField p).extractLsb' 0 3).toFin = p := by
  revert p; decide

/-- An 8-bit field is its two columns. -/
@[simp] theorem append_nibbles (v : BitVec 8) : (v.extractLsb' 4 4 ++ v.extractLsb' 0 4 : BitVec (4 + 4)) = v := by
  apply BitVec.eq_of_getLsbD_eq
  intro k hk
  simp only [BitVec.getLsbD_extractLsb', BitVec.getLsbD_append]
  interval_cases k <;> simp

/-- A 3-bit opcode over a 5-bit amount: the opcode and the amount are read back. -/
theorem opcode_of_amount (op : BitVec 3) (v : BitVec 5) :
    (op ++ v.extractLsb' 4 1 : BitVec (3 + 1)).extractLsb' 1 3 = op := by
  apply BitVec.eq_of_getLsbD_eq
  intro k hk
  simp only [BitVec.getLsbD_extractLsb', BitVec.getLsbD_append]
  interval_cases k <;> simp
theorem amount_of_amount (op : BitVec 3) (v : BitVec 5) :
    ((op ++ v.extractLsb' 4 1 : BitVec (3 + 1)).extractLsb' 0 1 ++ v.extractLsb' 0 4 : BitVec (1 + 4)) = v := by
  apply BitVec.eq_of_getLsbD_eq
  intro k hk
  simp only [BitVec.getLsbD_extractLsb', BitVec.getLsbD_append]
  interval_cases k <;> simp

/-- A 24-bit field is its two columns and its lower halfword. -/
@[simp] theorem append_field24 (v : BitVec 24) :
    (v.extractLsb' 20 4 ++ v.extractLsb' 16 4 ++ v.extractLsb' 0 16 : BitVec (4 + 4 + 16)) = v := by
  apply BitVec.eq_of_getLsbD_eq
  intro k hk
  simp only [BitVec.getLsbD_extractLsb', BitVec.getLsbD_append]
  interval_cases k <;> simp

/-- In the upper slot the bytes of a halfword whose top bit is 0 are decoded alone. -/
theorem decode_upper_short (h : Half) (rest : List Byte) (hm : h.msb = false) :
    decode .upper (bytesOfHalves [h] ++ rest) =
      orUndefined (decodeShort (column h 12) (column h 8) (column h 4) (column h 0)) := by
  simp [decode, bytesOfHalves, decodeHalves, hm, decode16]

/-- In the lower slot too. -/
theorem decode_lower_short (h : Half) (rest : List Byte) (hm : h.msb = false) :
    decode .lower (bytesOfHalves [h] ++ rest) =
      orUndefined (decodeShort (column h 12) (column h 8) (column h 4) (column h 0)) := by
  simp [decode, bytesOfHalves, decodeHalves, hm, decode16]

/-- In the upper slot a halfword whose top bit is 1 is decoded with the one after it. -/
theorem decode_upper_long (h lo : Half) (rest : List Byte) (hm : h.msb = true) :
    decode .upper (bytesOfHalves [h, lo] ++ rest) =
      orUndefined (decodeLong (column h 12) (column h 8) (column h 4) (column h 0) lo) := by
  simp [decode, bytesOfHalves, decodeHalves, hm, decode32]

end Sys2Proof
end

