-- ==== Sys2Proof/Laws/State.lean ====
section
/-! SUPPORT. One lemma per field per update of State, so that no proof unfolds a record update. -/

namespace Sys2Proof.Machine

-- ## setPsw

@[simp] theorem setPsw_gprs (s : State) (v : Word) : (s.setPsw v).gprs = s.gprs := rfl
@[simp] theorem setPsw_spi (s : State) (v : Word) : (s.setPsw v).spi = s.spi := rfl
@[simp] theorem setPsw_spu (s : State) (v : Word) : (s.setPsw v).spu = s.spu := rfl
@[simp] theorem setPsw_pc (s : State) (v : Word) : (s.setPsw v).pc = s.pc := rfl
@[simp] theorem setPsw_bpc (s : State) (v : Word) : (s.setPsw v).bpc = s.bpc := rfl
@[simp] theorem setPsw_fpsr (s : State) (v : Word) : (s.setPsw v).fpsr = s.fpsr := rfl
@[simp] theorem setPsw_acc (s : State) (v : Word) : (s.setPsw v).acc = s.acc := rfl
@[simp] theorem setPsw_lockBit (s : State) (v : Word) : (s.setPsw v).lockBit = s.lockBit := rfl
@[simp] theorem setPsw_mem (s : State) (v : Word) : (s.setPsw v).mem = s.mem := rfl
@[simp] theorem setPsw_vectors (s : State) (v : Word) : (s.setPsw v).vectors = s.vectors := rfl
@[simp] theorem setPsw_intRequests (s : State) (v : Word) : (s.setPsw v).intRequests = s.intRequests := rfl
@[simp] theorem setPsw_draws (s : State) (v : Word) : (s.setPsw v).draws = s.draws := rfl
@[simp] theorem setPsw_bpcOpen (s : State) (v : Word) : (s.setPsw v).bpcOpen = s.bpcOpen := rfl
@[simp] theorem setPsw_psw (s : State) (v : Word) : (s.setPsw v).psw = v &&& pswMask := rfl
@[simp] theorem setPsw_bpswOpen (s : State) (v : Word) : (s.setPsw v).bpswOpen = false := rfl

-- ## setC

@[simp] theorem setC_gprs (s : State) (b : Bool) : (s.setC b).gprs = s.gprs := rfl
@[simp] theorem setC_spi (s : State) (b : Bool) : (s.setC b).spi = s.spi := rfl
@[simp] theorem setC_spu (s : State) (b : Bool) : (s.setC b).spu = s.spu := rfl
@[simp] theorem setC_pc (s : State) (b : Bool) : (s.setC b).pc = s.pc := rfl
@[simp] theorem setC_bpc (s : State) (b : Bool) : (s.setC b).bpc = s.bpc := rfl
@[simp] theorem setC_fpsr (s : State) (b : Bool) : (s.setC b).fpsr = s.fpsr := rfl
@[simp] theorem setC_acc (s : State) (b : Bool) : (s.setC b).acc = s.acc := rfl
@[simp] theorem setC_lockBit (s : State) (b : Bool) : (s.setC b).lockBit = s.lockBit := rfl
@[simp] theorem setC_mem (s : State) (b : Bool) : (s.setC b).mem = s.mem := rfl
@[simp] theorem setC_vectors (s : State) (b : Bool) : (s.setC b).vectors = s.vectors := rfl
@[simp] theorem setC_intRequests (s : State) (b : Bool) : (s.setC b).intRequests = s.intRequests := rfl
@[simp] theorem setC_draws (s : State) (b : Bool) : (s.setC b).draws = s.draws := rfl
@[simp] theorem setC_bpswOpen (s : State) (b : Bool) : (s.setC b).bpswOpen = s.bpswOpen := rfl
@[simp] theorem setC_bpcOpen (s : State) (b : Bool) : (s.setC b).bpcOpen = s.bpcOpen := rfl
@[simp] theorem setC_psw (s : State) (b : Bool) : (s.setC b).psw = putBit s.psw 0 b := rfl

-- ## setBpc

@[simp] theorem setBpc_gprs (s : State) (v : Word) : (s.setBpc v).gprs = s.gprs := rfl
@[simp] theorem setBpc_spi (s : State) (v : Word) : (s.setBpc v).spi = s.spi := rfl
@[simp] theorem setBpc_spu (s : State) (v : Word) : (s.setBpc v).spu = s.spu := rfl
@[simp] theorem setBpc_pc (s : State) (v : Word) : (s.setBpc v).pc = s.pc := rfl
@[simp] theorem setBpc_psw (s : State) (v : Word) : (s.setBpc v).psw = s.psw := rfl
@[simp] theorem setBpc_fpsr (s : State) (v : Word) : (s.setBpc v).fpsr = s.fpsr := rfl
@[simp] theorem setBpc_acc (s : State) (v : Word) : (s.setBpc v).acc = s.acc := rfl
@[simp] theorem setBpc_lockBit (s : State) (v : Word) : (s.setBpc v).lockBit = s.lockBit := rfl
@[simp] theorem setBpc_mem (s : State) (v : Word) : (s.setBpc v).mem = s.mem := rfl
@[simp] theorem setBpc_vectors (s : State) (v : Word) : (s.setBpc v).vectors = s.vectors := rfl
@[simp] theorem setBpc_intRequests (s : State) (v : Word) : (s.setBpc v).intRequests = s.intRequests := rfl
@[simp] theorem setBpc_draws (s : State) (v : Word) : (s.setBpc v).draws = s.draws := rfl
@[simp] theorem setBpc_bpswOpen (s : State) (v : Word) : (s.setBpc v).bpswOpen = s.bpswOpen := rfl
@[simp] theorem setBpc_bpc (s : State) (v : Word) : (s.setBpc v).bpc = v &&& bpcMask := rfl
@[simp] theorem setBpc_bpcOpen (s : State) (v : Word) : (s.setBpc v).bpcOpen = false := rfl

-- ## advance

@[simp] theorem advance_gprs (s : State) (n : Word) : (s.advance n).gprs = s.gprs := rfl
@[simp] theorem advance_spi (s : State) (n : Word) : (s.advance n).spi = s.spi := rfl
@[simp] theorem advance_spu (s : State) (n : Word) : (s.advance n).spu = s.spu := rfl
@[simp] theorem advance_psw (s : State) (n : Word) : (s.advance n).psw = s.psw := rfl
@[simp] theorem advance_bpc (s : State) (n : Word) : (s.advance n).bpc = s.bpc := rfl
@[simp] theorem advance_fpsr (s : State) (n : Word) : (s.advance n).fpsr = s.fpsr := rfl
@[simp] theorem advance_acc (s : State) (n : Word) : (s.advance n).acc = s.acc := rfl
@[simp] theorem advance_lockBit (s : State) (n : Word) : (s.advance n).lockBit = s.lockBit := rfl
@[simp] theorem advance_mem (s : State) (n : Word) : (s.advance n).mem = s.mem := rfl
@[simp] theorem advance_vectors (s : State) (n : Word) : (s.advance n).vectors = s.vectors := rfl
@[simp] theorem advance_intRequests (s : State) (n : Word) : (s.advance n).intRequests = s.intRequests := rfl
@[simp] theorem advance_draws (s : State) (n : Word) : (s.advance n).draws = s.draws := rfl
@[simp] theorem advance_bpswOpen (s : State) (n : Word) : (s.advance n).bpswOpen = s.bpswOpen := rfl
@[simp] theorem advance_bpcOpen (s : State) (n : Word) : (s.advance n).bpcOpen = s.bpcOpen := rfl
@[simp] theorem advance_pc (s : State) (n : Word) : (s.advance n).pc = s.pc + n := rfl

-- ## jumpTo

@[simp] theorem jumpTo_gprs (s : State) (a : Word) : (s.jumpTo a).gprs = s.gprs := rfl
@[simp] theorem jumpTo_spi (s : State) (a : Word) : (s.jumpTo a).spi = s.spi := rfl
@[simp] theorem jumpTo_spu (s : State) (a : Word) : (s.jumpTo a).spu = s.spu := rfl
@[simp] theorem jumpTo_psw (s : State) (a : Word) : (s.jumpTo a).psw = s.psw := rfl
@[simp] theorem jumpTo_bpc (s : State) (a : Word) : (s.jumpTo a).bpc = s.bpc := rfl
@[simp] theorem jumpTo_fpsr (s : State) (a : Word) : (s.jumpTo a).fpsr = s.fpsr := rfl
@[simp] theorem jumpTo_acc (s : State) (a : Word) : (s.jumpTo a).acc = s.acc := rfl
@[simp] theorem jumpTo_lockBit (s : State) (a : Word) : (s.jumpTo a).lockBit = s.lockBit := rfl
@[simp] theorem jumpTo_mem (s : State) (a : Word) : (s.jumpTo a).mem = s.mem := rfl
@[simp] theorem jumpTo_vectors (s : State) (a : Word) : (s.jumpTo a).vectors = s.vectors := rfl
@[simp] theorem jumpTo_intRequests (s : State) (a : Word) : (s.jumpTo a).intRequests = s.intRequests := rfl
@[simp] theorem jumpTo_draws (s : State) (a : Word) : (s.jumpTo a).draws = s.draws := rfl
@[simp] theorem jumpTo_bpswOpen (s : State) (a : Word) : (s.jumpTo a).bpswOpen = s.bpswOpen := rfl
@[simp] theorem jumpTo_bpcOpen (s : State) (a : Word) : (s.jumpTo a).bpcOpen = s.bpcOpen := rfl
@[simp] theorem jumpTo_pc (s : State) (a : Word) : (s.jumpTo a).pc = a := rfl

-- ## setAccInt

@[simp] theorem setAccInt_gprs (s : State) (v : Int) : (s.setAccInt v).gprs = s.gprs := rfl
@[simp] theorem setAccInt_spi (s : State) (v : Int) : (s.setAccInt v).spi = s.spi := rfl
@[simp] theorem setAccInt_spu (s : State) (v : Int) : (s.setAccInt v).spu = s.spu := rfl
@[simp] theorem setAccInt_pc (s : State) (v : Int) : (s.setAccInt v).pc = s.pc := rfl
@[simp] theorem setAccInt_psw (s : State) (v : Int) : (s.setAccInt v).psw = s.psw := rfl
@[simp] theorem setAccInt_bpc (s : State) (v : Int) : (s.setAccInt v).bpc = s.bpc := rfl
@[simp] theorem setAccInt_fpsr (s : State) (v : Int) : (s.setAccInt v).fpsr = s.fpsr := rfl
@[simp] theorem setAccInt_lockBit (s : State) (v : Int) : (s.setAccInt v).lockBit = s.lockBit := rfl
@[simp] theorem setAccInt_mem (s : State) (v : Int) : (s.setAccInt v).mem = s.mem := rfl
@[simp] theorem setAccInt_vectors (s : State) (v : Int) : (s.setAccInt v).vectors = s.vectors := rfl
@[simp] theorem setAccInt_intRequests (s : State) (v : Int) : (s.setAccInt v).intRequests = s.intRequests := rfl
@[simp] theorem setAccInt_draws (s : State) (v : Int) : (s.setAccInt v).draws = s.draws := rfl
@[simp] theorem setAccInt_bpswOpen (s : State) (v : Int) : (s.setAccInt v).bpswOpen = s.bpswOpen := rfl
@[simp] theorem setAccInt_bpcOpen (s : State) (v : Int) : (s.setAccInt v).bpcOpen = s.bpcOpen := rfl
@[simp] theorem setAccInt_acc (s : State) (v : Int) : (s.setAccInt v).acc = BitVec.ofInt 56 v := rfl

-- ## setStackPointer

@[simp] theorem setStackPointer_gprs (s : State) (v : Word) : (s.setStackPointer v).gprs = s.gprs := by
  unfold State.setStackPointer; split <;> rfl
@[simp] theorem setStackPointer_pc (s : State) (v : Word) : (s.setStackPointer v).pc = s.pc := by
  unfold State.setStackPointer; split <;> rfl
@[simp] theorem setStackPointer_psw (s : State) (v : Word) : (s.setStackPointer v).psw = s.psw := by
  unfold State.setStackPointer; split <;> rfl
@[simp] theorem setStackPointer_bpc (s : State) (v : Word) : (s.setStackPointer v).bpc = s.bpc := by
  unfold State.setStackPointer; split <;> rfl
@[simp] theorem setStackPointer_fpsr (s : State) (v : Word) : (s.setStackPointer v).fpsr = s.fpsr := by
  unfold State.setStackPointer; split <;> rfl
@[simp] theorem setStackPointer_acc (s : State) (v : Word) : (s.setStackPointer v).acc = s.acc := by
  unfold State.setStackPointer; split <;> rfl
@[simp] theorem setStackPointer_lockBit (s : State) (v : Word) : (s.setStackPointer v).lockBit = s.lockBit := by
  unfold State.setStackPointer; split <;> rfl
@[simp] theorem setStackPointer_mem (s : State) (v : Word) : (s.setStackPointer v).mem = s.mem := by
  unfold State.setStackPointer; split <;> rfl
@[simp] theorem setStackPointer_vectors (s : State) (v : Word) : (s.setStackPointer v).vectors = s.vectors := by
  unfold State.setStackPointer; split <;> rfl
@[simp] theorem setStackPointer_intRequests (s : State) (v : Word) : (s.setStackPointer v).intRequests = s.intRequests := by
  unfold State.setStackPointer; split <;> rfl
@[simp] theorem setStackPointer_draws (s : State) (v : Word) : (s.setStackPointer v).draws = s.draws := by
  unfold State.setStackPointer; split <;> rfl
@[simp] theorem setStackPointer_bpswOpen (s : State) (v : Word) : (s.setStackPointer v).bpswOpen = s.bpswOpen := by
  unfold State.setStackPointer; split <;> rfl
@[simp] theorem setStackPointer_bpcOpen (s : State) (v : Word) : (s.setStackPointer v).bpcOpen = s.bpcOpen := by
  unfold State.setStackPointer; split <;> rfl

-- ## setReg

@[simp] theorem setReg_pc (s : State) (r : Reg) (v : Word) : (s.setReg r v).pc = s.pc := by
  unfold State.setReg; split <;> simp
@[simp] theorem setReg_psw (s : State) (r : Reg) (v : Word) : (s.setReg r v).psw = s.psw := by
  unfold State.setReg; split <;> simp
@[simp] theorem setReg_bpc (s : State) (r : Reg) (v : Word) : (s.setReg r v).bpc = s.bpc := by
  unfold State.setReg; split <;> simp
@[simp] theorem setReg_fpsr (s : State) (r : Reg) (v : Word) : (s.setReg r v).fpsr = s.fpsr := by
  unfold State.setReg; split <;> simp
@[simp] theorem setReg_acc (s : State) (r : Reg) (v : Word) : (s.setReg r v).acc = s.acc := by
  unfold State.setReg; split <;> simp
@[simp] theorem setReg_lockBit (s : State) (r : Reg) (v : Word) : (s.setReg r v).lockBit = s.lockBit := by
  unfold State.setReg; split <;> simp
@[simp] theorem setReg_mem (s : State) (r : Reg) (v : Word) : (s.setReg r v).mem = s.mem := by
  unfold State.setReg; split <;> simp
@[simp] theorem setReg_vectors (s : State) (r : Reg) (v : Word) : (s.setReg r v).vectors = s.vectors := by
  unfold State.setReg; split <;> simp
@[simp] theorem setReg_intRequests (s : State) (r : Reg) (v : Word) : (s.setReg r v).intRequests = s.intRequests := by
  unfold State.setReg; split <;> simp
@[simp] theorem setReg_draws (s : State) (r : Reg) (v : Word) : (s.setReg r v).draws = s.draws := by
  unfold State.setReg; split <;> simp
@[simp] theorem setReg_bpswOpen (s : State) (r : Reg) (v : Word) : (s.setReg r v).bpswOpen = s.bpswOpen := by
  unfold State.setReg; split <;> simp
@[simp] theorem setReg_bpcOpen (s : State) (r : Reg) (v : Word) : (s.setReg r v).bpcOpen = s.bpcOpen := by
  unfold State.setReg; split <;> simp

-- ## writeByte

@[simp] theorem writeByte_gprs (s : State) (a : Word) (b : Byte) : (s.writeByte a b).gprs = s.gprs := rfl
@[simp] theorem writeByte_spi (s : State) (a : Word) (b : Byte) : (s.writeByte a b).spi = s.spi := rfl
@[simp] theorem writeByte_spu (s : State) (a : Word) (b : Byte) : (s.writeByte a b).spu = s.spu := rfl
@[simp] theorem writeByte_pc (s : State) (a : Word) (b : Byte) : (s.writeByte a b).pc = s.pc := rfl
@[simp] theorem writeByte_psw (s : State) (a : Word) (b : Byte) : (s.writeByte a b).psw = s.psw := rfl
@[simp] theorem writeByte_bpc (s : State) (a : Word) (b : Byte) : (s.writeByte a b).bpc = s.bpc := rfl
@[simp] theorem writeByte_fpsr (s : State) (a : Word) (b : Byte) : (s.writeByte a b).fpsr = s.fpsr := rfl
@[simp] theorem writeByte_acc (s : State) (a : Word) (b : Byte) : (s.writeByte a b).acc = s.acc := rfl
@[simp] theorem writeByte_lockBit (s : State) (a : Word) (b : Byte) : (s.writeByte a b).lockBit = s.lockBit := rfl
@[simp] theorem writeByte_vectors (s : State) (a : Word) (b : Byte) : (s.writeByte a b).vectors = s.vectors := rfl
@[simp] theorem writeByte_intRequests (s : State) (a : Word) (b : Byte) : (s.writeByte a b).intRequests = s.intRequests := rfl
@[simp] theorem writeByte_draws (s : State) (a : Word) (b : Byte) : (s.writeByte a b).draws = s.draws := rfl
@[simp] theorem writeByte_bpswOpen (s : State) (a : Word) (b : Byte) : (s.writeByte a b).bpswOpen = s.bpswOpen := rfl
@[simp] theorem writeByte_bpcOpen (s : State) (a : Word) (b : Byte) : (s.writeByte a b).bpcOpen = s.bpcOpen := rfl
@[simp] theorem writeByte_mem (s : State) (a : Word) (b : Byte) : (s.writeByte a b).mem = storeByte s.mem a.toNat b := rfl

-- ## writeHalf

@[simp] theorem writeHalf_gprs (s : State) (a : Word) (v : Half) : (s.writeHalf a v).gprs = s.gprs := by simp [State.writeHalf]
@[simp] theorem writeHalf_spi (s : State) (a : Word) (v : Half) : (s.writeHalf a v).spi = s.spi := by simp [State.writeHalf]
@[simp] theorem writeHalf_spu (s : State) (a : Word) (v : Half) : (s.writeHalf a v).spu = s.spu := by simp [State.writeHalf]
@[simp] theorem writeHalf_pc (s : State) (a : Word) (v : Half) : (s.writeHalf a v).pc = s.pc := by simp [State.writeHalf]
@[simp] theorem writeHalf_psw (s : State) (a : Word) (v : Half) : (s.writeHalf a v).psw = s.psw := by simp [State.writeHalf]
@[simp] theorem writeHalf_bpc (s : State) (a : Word) (v : Half) : (s.writeHalf a v).bpc = s.bpc := by simp [State.writeHalf]
@[simp] theorem writeHalf_fpsr (s : State) (a : Word) (v : Half) : (s.writeHalf a v).fpsr = s.fpsr := by simp [State.writeHalf]
@[simp] theorem writeHalf_acc (s : State) (a : Word) (v : Half) : (s.writeHalf a v).acc = s.acc := by simp [State.writeHalf]
@[simp] theorem writeHalf_lockBit (s : State) (a : Word) (v : Half) : (s.writeHalf a v).lockBit = s.lockBit := by simp [State.writeHalf]
@[simp] theorem writeHalf_vectors (s : State) (a : Word) (v : Half) : (s.writeHalf a v).vectors = s.vectors := by simp [State.writeHalf]
@[simp] theorem writeHalf_intRequests (s : State) (a : Word) (v : Half) : (s.writeHalf a v).intRequests = s.intRequests := by simp [State.writeHalf]
@[simp] theorem writeHalf_draws (s : State) (a : Word) (v : Half) : (s.writeHalf a v).draws = s.draws := by simp [State.writeHalf]
@[simp] theorem writeHalf_bpswOpen (s : State) (a : Word) (v : Half) : (s.writeHalf a v).bpswOpen = s.bpswOpen := by simp [State.writeHalf]
@[simp] theorem writeHalf_bpcOpen (s : State) (a : Word) (v : Half) : (s.writeHalf a v).bpcOpen = s.bpcOpen := by simp [State.writeHalf]

-- ## writeWord

@[simp] theorem writeWord_gprs (s : State) (a v : Word) : (s.writeWord a v).gprs = s.gprs := by simp [State.writeWord]
@[simp] theorem writeWord_spi (s : State) (a v : Word) : (s.writeWord a v).spi = s.spi := by simp [State.writeWord]
@[simp] theorem writeWord_spu (s : State) (a v : Word) : (s.writeWord a v).spu = s.spu := by simp [State.writeWord]
@[simp] theorem writeWord_pc (s : State) (a v : Word) : (s.writeWord a v).pc = s.pc := by simp [State.writeWord]
@[simp] theorem writeWord_psw (s : State) (a v : Word) : (s.writeWord a v).psw = s.psw := by simp [State.writeWord]
@[simp] theorem writeWord_bpc (s : State) (a v : Word) : (s.writeWord a v).bpc = s.bpc := by simp [State.writeWord]
@[simp] theorem writeWord_fpsr (s : State) (a v : Word) : (s.writeWord a v).fpsr = s.fpsr := by simp [State.writeWord]
@[simp] theorem writeWord_acc (s : State) (a v : Word) : (s.writeWord a v).acc = s.acc := by simp [State.writeWord]
@[simp] theorem writeWord_lockBit (s : State) (a v : Word) : (s.writeWord a v).lockBit = s.lockBit := by simp [State.writeWord]
@[simp] theorem writeWord_vectors (s : State) (a v : Word) : (s.writeWord a v).vectors = s.vectors := by simp [State.writeWord]
@[simp] theorem writeWord_intRequests (s : State) (a v : Word) : (s.writeWord a v).intRequests = s.intRequests := by simp [State.writeWord]
@[simp] theorem writeWord_draws (s : State) (a v : Word) : (s.writeWord a v).draws = s.draws := by simp [State.writeWord]
@[simp] theorem writeWord_bpswOpen (s : State) (a v : Word) : (s.writeWord a v).bpswOpen = s.bpswOpen := by simp [State.writeWord]
@[simp] theorem writeWord_bpcOpen (s : State) (a v : Word) : (s.writeWord a v).bpcOpen = s.bpcOpen := by simp [State.writeWord]

-- ## takeEit

@[simp] theorem takeEit_gprs (s : State) (k : EitKind) (b : Word) : (s.takeEit k b).gprs = s.gprs := rfl
@[simp] theorem takeEit_spi (s : State) (k : EitKind) (b : Word) : (s.takeEit k b).spi = s.spi := rfl
@[simp] theorem takeEit_spu (s : State) (k : EitKind) (b : Word) : (s.takeEit k b).spu = s.spu := rfl
@[simp] theorem takeEit_fpsr (s : State) (k : EitKind) (b : Word) : (s.takeEit k b).fpsr = s.fpsr := rfl
@[simp] theorem takeEit_acc (s : State) (k : EitKind) (b : Word) : (s.takeEit k b).acc = s.acc := rfl
@[simp] theorem takeEit_lockBit (s : State) (k : EitKind) (b : Word) : (s.takeEit k b).lockBit = s.lockBit := rfl
@[simp] theorem takeEit_mem (s : State) (k : EitKind) (b : Word) : (s.takeEit k b).mem = s.mem := rfl
@[simp] theorem takeEit_vectors (s : State) (k : EitKind) (b : Word) : (s.takeEit k b).vectors = s.vectors := rfl
@[simp] theorem takeEit_intRequests (s : State) (k : EitKind) (b : Word) : (s.takeEit k b).intRequests = s.intRequests := rfl
@[simp] theorem takeEit_draws (s : State) (k : EitKind) (b : Word) : (s.takeEit k b).draws = s.draws := rfl
@[simp] theorem takeEit_bpswOpen (s : State) (k : EitKind) (b : Word) : (s.takeEit k b).bpswOpen = false := rfl
@[simp] theorem takeEit_bpcOpen (s : State) (k : EitKind) (b : Word) : (s.takeEit k b).bpcOpen = false := rfl
@[simp] theorem takeEit_bpc (s : State) (k : EitKind) (b : Word) : (s.takeEit k b).bpc = b &&& bpcMask := rfl
@[simp] theorem takeEit_psw (s : State) (k : EitKind) (b : Word) : (s.takeEit k b).psw = pswAtEntry k s.psw := rfl
@[simp] theorem takeEit_pc (s : State) (k : EitKind) (b : Word) : (s.takeEit k b).pc = eitEntryAddress s.vectors k := rfl

-- ## takeAe

@[simp] theorem takeAe_gprs (s : State) : (s.takeAe).gprs = s.gprs := rfl
@[simp] theorem takeAe_spi (s : State) : (s.takeAe).spi = s.spi := rfl
@[simp] theorem takeAe_spu (s : State) : (s.takeAe).spu = s.spu := rfl
@[simp] theorem takeAe_fpsr (s : State) : (s.takeAe).fpsr = s.fpsr := rfl
@[simp] theorem takeAe_acc (s : State) : (s.takeAe).acc = s.acc := rfl
@[simp] theorem takeAe_lockBit (s : State) : (s.takeAe).lockBit = s.lockBit := rfl
@[simp] theorem takeAe_mem (s : State) : (s.takeAe).mem = s.mem := rfl
@[simp] theorem takeAe_vectors (s : State) : (s.takeAe).vectors = s.vectors := rfl
@[simp] theorem takeAe_intRequests (s : State) : (s.takeAe).intRequests = s.intRequests := rfl
@[simp] theorem takeAe_draws (s : State) : (s.takeAe).draws = s.draws := rfl
@[simp] theorem takeAe_bpswOpen (s : State) : (s.takeAe).bpswOpen = false := rfl
@[simp] theorem takeAe_bpcOpen (s : State) : (s.takeAe).bpcOpen = false := rfl
@[simp] theorem takeAe_bpc (s : State) : (s.takeAe).bpc = s.pc &&& bpcMask := rfl
@[simp] theorem takeAe_psw (s : State) : (s.takeAe).psw = pswAtEntry .ae s.psw := rfl
@[simp] theorem takeAe_pc (s : State) : (s.takeAe).pc = eitEntryAddress s.vectors .ae := rfl

-- ## takeInterrupt

@[simp] theorem takeInterrupt_gprs (s : State) : (s.takeInterrupt).gprs = s.gprs := rfl
@[simp] theorem takeInterrupt_spi (s : State) : (s.takeInterrupt).spi = s.spi := rfl
@[simp] theorem takeInterrupt_spu (s : State) : (s.takeInterrupt).spu = s.spu := rfl
@[simp] theorem takeInterrupt_fpsr (s : State) : (s.takeInterrupt).fpsr = s.fpsr := rfl
@[simp] theorem takeInterrupt_acc (s : State) : (s.takeInterrupt).acc = s.acc := rfl
@[simp] theorem takeInterrupt_lockBit (s : State) : (s.takeInterrupt).lockBit = s.lockBit := rfl
@[simp] theorem takeInterrupt_mem (s : State) : (s.takeInterrupt).mem = s.mem := rfl
@[simp] theorem takeInterrupt_vectors (s : State) : (s.takeInterrupt).vectors = s.vectors := rfl
@[simp] theorem takeInterrupt_intRequests (s : State) : (s.takeInterrupt).intRequests = s.intRequests := rfl
@[simp] theorem takeInterrupt_draws (s : State) : (s.takeInterrupt).draws = s.draws := rfl
@[simp] theorem takeInterrupt_bpswOpen (s : State) : (s.takeInterrupt).bpswOpen = false := rfl
@[simp] theorem takeInterrupt_bpcOpen (s : State) : (s.takeInterrupt).bpcOpen = false := rfl
@[simp] theorem takeInterrupt_bpc (s : State) : (s.takeInterrupt).bpc = s.pc &&& bpcMask := rfl
@[simp] theorem takeInterrupt_psw (s : State) : (s.takeInterrupt).psw = pswAtEntry .ei s.psw := rfl
@[simp] theorem takeInterrupt_pc (s : State) : (s.takeInterrupt).pc = eitEntryAddress s.vectors .ei := rfl

-- ## returnFromEit

@[simp] theorem returnFromEit_gprs (s : State) : (s.returnFromEit).gprs = s.gprs := rfl
@[simp] theorem returnFromEit_spi (s : State) : (s.returnFromEit).spi = s.spi := rfl
@[simp] theorem returnFromEit_spu (s : State) : (s.returnFromEit).spu = s.spu := rfl
@[simp] theorem returnFromEit_fpsr (s : State) : (s.returnFromEit).fpsr = s.fpsr := rfl
@[simp] theorem returnFromEit_acc (s : State) : (s.returnFromEit).acc = s.acc := rfl
@[simp] theorem returnFromEit_lockBit (s : State) : (s.returnFromEit).lockBit = s.lockBit := rfl
@[simp] theorem returnFromEit_mem (s : State) : (s.returnFromEit).mem = s.mem := rfl
@[simp] theorem returnFromEit_vectors (s : State) : (s.returnFromEit).vectors = s.vectors := rfl
@[simp] theorem returnFromEit_intRequests (s : State) : (s.returnFromEit).intRequests = s.intRequests := rfl
@[simp] theorem returnFromEit_bpswOpen (s : State) : (s.returnFromEit).bpswOpen = true := rfl
@[simp] theorem returnFromEit_bpcOpen (s : State) : (s.returnFromEit).bpcOpen = true := rfl
@[simp] theorem returnFromEit_pc (s : State) : (s.returnFromEit).pc = wordAligned s.bpc := rfl
@[simp] theorem returnFromEit_psw (s : State) : (s.returnFromEit).psw = pswAfterRte s.psw (Config.backupAfterRte s.draws) := rfl
@[simp] theorem returnFromEit_bpc (s : State) : (s.returnFromEit).bpc = Config.bpcAfterRte s.draws &&& bpcMask := rfl
@[simp] theorem returnFromEit_draws (s : State) : (s.returnFromEit).draws = s.draws + 1 := rfl

-- ## pastBoundary

@[simp] theorem pastBoundary_gprs (s : State) : (s.pastBoundary).gprs = s.gprs := rfl
@[simp] theorem pastBoundary_spi (s : State) : (s.pastBoundary).spi = s.spi := rfl
@[simp] theorem pastBoundary_spu (s : State) : (s.pastBoundary).spu = s.spu := rfl
@[simp] theorem pastBoundary_pc (s : State) : (s.pastBoundary).pc = s.pc := rfl
@[simp] theorem pastBoundary_psw (s : State) : (s.pastBoundary).psw = s.psw := rfl
@[simp] theorem pastBoundary_bpc (s : State) : (s.pastBoundary).bpc = s.bpc := rfl
@[simp] theorem pastBoundary_fpsr (s : State) : (s.pastBoundary).fpsr = s.fpsr := rfl
@[simp] theorem pastBoundary_acc (s : State) : (s.pastBoundary).acc = s.acc := rfl
@[simp] theorem pastBoundary_lockBit (s : State) : (s.pastBoundary).lockBit = s.lockBit := rfl
@[simp] theorem pastBoundary_mem (s : State) : (s.pastBoundary).mem = s.mem := rfl
@[simp] theorem pastBoundary_vectors (s : State) : (s.pastBoundary).vectors = s.vectors := rfl
@[simp] theorem pastBoundary_draws (s : State) : (s.pastBoundary).draws = s.draws := rfl
@[simp] theorem pastBoundary_bpswOpen (s : State) : (s.pastBoundary).bpswOpen = s.bpswOpen := rfl
@[simp] theorem pastBoundary_bpcOpen (s : State) : (s.pastBoundary).bpcOpen = s.bpcOpen := rfl
@[simp] theorem pastBoundary_intRequests (s : State) : (s.pastBoundary).intRequests = s.intRequests.tail := rfl

end Sys2Proof.Machine
end

