-- ==== Sys2Proof/Laws/Ops.lean ====
section
/-! SUPPORT. For each shared operation, once, what it can do: bits of PSW, banked registers, bytes of memory and their
canonical form, data accesses, EIT entry and return. -/

namespace Sys2Proof.Machine

-- ## Bits

theorem getLsbD_putBit (w : Word) (k j : Nat) (b : Bool) (hk : k < 32) :
    (putBit w k b).getLsbD j = if j = k then b else w.getLsbD j := by
  unfold putBit
  by_cases hj : j < 32
  · by_cases h : j = k
    · subst h
      cases b <;> simp [hk]
    · have h1 : (1#32 <<< k).getLsbD j = false := by
        rw [BitVec.getLsbD_shiftLeft, BitVec.getLsbD_one]
        simp; omega
      cases b
      · simp only [Bool.false_eq_true, if_false, BitVec.getLsbD_and, BitVec.getLsbD_not, h1]; simp [h, hj]
      · simp only [if_true, BitVec.getLsbD_or, h1]; simp [h]
  · have h : j ≠ k := by omega
    rw [BitVec.getLsbD_of_ge _ j (by omega), BitVec.getLsbD_of_ge w j (by omega)]
    simp [h]

@[simp] theorem c_setC (s : State) (b : Bool) : (s.setC b).c = b := by
  rw [State.c, setC_psw, getLsbD_putBit _ _ _ _ (by omega)]; rfl
@[simp] theorem sm_setC (s : State) (b : Bool) : (s.setC b).sm = s.sm := by
  rw [State.sm, setC_psw, getLsbD_putBit _ _ _ _ (by omega)]; rfl
@[simp] theorem ie_setC (s : State) (b : Bool) : (s.setC b).ie = s.ie := by
  rw [State.ie, setC_psw, getLsbD_putBit _ _ _ _ (by omega)]; rfl

theorem psw_setC_getLsbD (s : State) (b : Bool) (k : Nat) (hk : 0 < k) :
    (s.setC b).psw.getLsbD k = s.psw.getLsbD k := by
  rw [setC_psw, getLsbD_putBit _ _ _ _ (by omega), if_neg (by omega)]

-- ## General registers

/-- A register is read from R0 to R14, the two stack pointers and SM alone. -/
theorem reg_congr {s t : State} (hg : t.gprs = s.gprs) (hi : t.spi = s.spi) (hu : t.spu = s.spu)
    (hm : t.sm = s.sm) (r : Reg) : t.reg r = s.reg r := by
  simp [State.reg, State.stackPointer, hg, hi, hu, hm]

/-- R0 to R14 are read without the stack pointers. -/
theorem reg_congr_low {s t : State} (hg : t.gprs = s.gprs) (r : Reg) (h : r.val < 15) : t.reg r = s.reg r := by
  simp [State.reg, h, hg]

theorem reg_fifteen (s : State) : s.reg 15 = if s.sm then s.spu else s.spi := rfl

theorem eq_fifteen_of_not_lt {r : Reg} (h : ¬ r.val < 15) : r = 15 := by ext; simp; omega

@[simp] theorem reg_setReg_self (s : State) (r : Reg) (v : Word) : (s.setReg r v).reg r = v := by
  unfold State.setReg State.reg
  by_cases h : r.val < 15
  · simp [h]
  · simp only [h, dite_false, State.stackPointer, State.setStackPointer]
    cases hm : s.sm <;> simp [State.sm] at hm ⊢ <;> simp [hm]

theorem reg_setReg_of_ne (s : State) {r q : Reg} (v : Word) (h : q ≠ r) : (s.setReg r v).reg q = s.reg q := by
  unfold State.setReg
  by_cases hr : r.val < 15
  · simp only [hr, dite_true, State.reg]
    by_cases hq : q.val < 15
    · have : r.val ≠ q.val := fun e => h (Fin.ext e.symm)
      simp [hq, Vector.getElem_set_ne, this]
    · simp [hq, State.stackPointer, State.sm]
  · have hq : q.val < 15 := by
      by_contra hc
      exact h ((eq_fifteen_of_not_lt hc).trans (eq_fifteen_of_not_lt hr).symm)
    simp only [hr, dite_false]
    exact reg_congr_low (by simp) q hq

theorem reg_setReg (s : State) (r q : Reg) (v : Word) :
    (s.setReg r v).reg q = if q = r then v else s.reg q := by
  split
  · subst_vars; simp
  · exact reg_setReg_of_ne s v ‹_›

theorem spi_setReg (s : State) (r : Reg) (v : Word) (h : r = 15 → s.sm = true) : (s.setReg r v).spi = s.spi := by
  unfold State.setReg State.setStackPointer
  by_cases hr : r.val < 15
  · simp [hr]
  · simp [hr, h (eq_fifteen_of_not_lt hr)]

theorem spu_setReg (s : State) (r : Reg) (v : Word) (h : r = 15 → s.sm = false) : (s.setReg r v).spu = s.spu := by
  unfold State.setReg State.setStackPointer
  by_cases hr : r.val < 15
  · simp [hr]
  · simp [hr, h (eq_fifteen_of_not_lt hr)]

@[simp] theorem sm_setReg (s : State) (r : Reg) (v : Word) : (s.setReg r v).sm = s.sm := by simp [State.sm]
@[simp] theorem c_setReg (s : State) (r : Reg) (v : Word) : (s.setReg r v).c = s.c := by simp [State.c]
@[simp] theorem sm_advance (s : State) (n : Word) : (s.advance n).sm = s.sm := rfl
@[simp] theorem c_advance (s : State) (n : Word) : (s.advance n).c = s.c := rfl
@[simp] theorem sm_jumpTo (s : State) (a : Word) : (s.jumpTo a).sm = s.sm := rfl
@[simp] theorem c_jumpTo (s : State) (a : Word) : (s.jumpTo a).c = s.c := rfl
@[simp] theorem reg_advance (s : State) (n : Word) (r : Reg) : (s.advance n).reg r = s.reg r :=
  reg_congr rfl rfl rfl rfl r
@[simp] theorem reg_jumpTo (s : State) (a : Word) (r : Reg) : (s.jumpTo a).reg r = s.reg r :=
  reg_congr rfl rfl rfl rfl r
@[simp] theorem reg_setC (s : State) (b : Bool) (r : Reg) : (s.setC b).reg r = s.reg r :=
  reg_congr (s := s) (t := s.setC b) rfl rfl rfl (sm_setC s b) r
@[simp] theorem reg_setAccInt (s : State) (v : Int) (r : Reg) : (s.setAccInt v).reg r = s.reg r :=
  reg_congr rfl rfl rfl rfl r
@[simp] theorem reg_writeByte (s : State) (a : Word) (b : Byte) (r : Reg) : (s.writeByte a b).reg r = s.reg r :=
  reg_congr rfl rfl rfl rfl r
@[simp] theorem sm_writeByte (s : State) (a : Word) (b : Byte) : (s.writeByte a b).sm = s.sm := rfl
@[simp] theorem c_writeByte (s : State) (a : Word) (b : Byte) : (s.writeByte a b).c = s.c := rfl
@[simp] theorem reg_writeHalf (s : State) (a : Word) (v : Half) (r : Reg) : (s.writeHalf a v).reg r = s.reg r := by
  simp [State.writeHalf]
@[simp] theorem sm_writeHalf (s : State) (a : Word) (v : Half) : (s.writeHalf a v).sm = s.sm := by
  simp [State.writeHalf]
@[simp] theorem c_writeHalf (s : State) (a : Word) (v : Half) : (s.writeHalf a v).c = s.c := by
  simp [State.writeHalf]
@[simp] theorem reg_writeWord (s : State) (a v : Word) (r : Reg) : (s.writeWord a v).reg r = s.reg r := by
  simp [State.writeWord]
@[simp] theorem sm_writeWord (s : State) (a v : Word) : (s.writeWord a v).sm = s.sm := by simp [State.writeWord]
@[simp] theorem c_writeWord (s : State) (a v : Word) : (s.writeWord a v).c = s.c := by simp [State.writeWord]

-- ## Bytes of memory

theorem lookupByte_insertByte (m : Memory) (k j : Nat) (b : Byte) :
    lookupByte (insertByte k b m) j = if j = k then b else lookupByte m j := by
  induction m with
  | nil =>
    by_cases h : j = k
    · simp [insertByte, lookupByte, h]
    · have : ¬ k = j := fun e => h e.symm
      simp [insertByte, lookupByte, h, this]
  | cons c rest ih =>
    unfold insertByte
    by_cases h : j = k
    · subst h
      split_ifs <;> simp_all [lookupByte]
      omega
    · have hne : ¬ k = j := fun e => h e.symm
      split_ifs with h1 h2
      · simp [lookupByte, hne]
      · subst h2; simp [lookupByte, hne]
      · simp [lookupByte, ih, h]

theorem lookupByte_filter (m : Memory) (k j : Nat) :
    lookupByte (m.filter (fun c => decide (c.1 ≠ k))) j = if j = k then unlistedByte else lookupByte m j := by
  induction m with
  | nil => simp [lookupByte]
  | cons c rest ih =>
    by_cases hc : c.1 = k
    · rw [List.filter_cons, if_neg (by simp [hc]), ih]
      split_ifs with h
      · rfl
      · have : ¬ k = j := fun e => h e.symm
        simp [lookupByte, hc, this]
    · rw [List.filter_cons, if_pos (by simp [hc]), lookupByte, lookupByte, ih]
      split_ifs <;> simp_all

/-- Reading after one byte is stored: that byte is the one stored, every other is as before. -/
theorem lookupByte_storeByte (m : Memory) (k j : Nat) (b : Byte) :
    lookupByte (storeByte m k b) j = if j = k then b else lookupByte m j := by
  unfold storeByte
  split_ifs with hb hj hj
  · rw [lookupByte_filter]; simp [hj, hb]
  · rw [lookupByte_filter]; simp [hj]
  · rw [lookupByte_insertByte]; simp [hj]
  · rw [lookupByte_insertByte]; simp [hj]

theorem readByte_writeByte (s : State) (a x : Word) (b : Byte) :
    (s.writeByte a b).readByte x = if x = a then b else s.readByte x := by
  simp [State.readByte, lookupByte_storeByte, BitVec.toNat_inj]

theorem readByte_congr {s t : State} (h : t.mem = s.mem) (a : Word) : t.readByte a = s.readByte a := by
  simp [State.readByte, h]

theorem readHalf_congr {s t : State} (h : t.mem = s.mem) (a : Word) : t.readHalf a = s.readHalf a := by
  simp [State.readHalf, State.readByte, h]

theorem readWord_congr {s t : State} (h : t.mem = s.mem) (a : Word) : t.readWord a = s.readWord a := by
  simp [State.readWord, State.readByte, h]

theorem readByte_writeHalf_of_not_mem (s : State) (a x : Word) (v : Half)
    (h : x ∉ AccessWidth.half.bytesAt a) : (s.writeHalf a v).readByte x = s.readByte x := by
  simp only [AccessWidth.bytesAt, List.mem_cons, List.not_mem_nil, or_false, not_or] at h
  rw [State.writeHalf, readByte_writeByte, if_neg h.2, readByte_writeByte, if_neg h.1]

theorem readByte_writeWord_of_not_mem (s : State) (a x v : Word)
    (h : x ∉ AccessWidth.word.bytesAt a) : (s.writeWord a v).readByte x = s.readByte x := by
  simp only [AccessWidth.bytesAt, List.mem_cons, List.not_mem_nil, or_false, not_or] at h
  rw [State.writeWord, readByte_writeByte, if_neg h.2.2.2, readByte_writeByte, if_neg h.2.2.1, readByte_writeByte,
    if_neg h.2.1, readByte_writeByte, if_neg h.1]

-- ## The canonical form of memory

theorem memoryCanonical_cons (c : Host.Cell) (rest : Memory) :
    memoryCanonical (c :: rest) = true ↔
      c.1 < 2 ^ 32 ∧ c.2 ≠ unlistedByte ∧ (∀ d ∈ rest, c.1 < d.1) ∧ memoryCanonical rest = true := by
  simp [memoryCanonical, and_assoc]

theorem mem_insertByte {k : Nat} {b : Byte} {m : Memory} {d : Host.Cell} (h : d ∈ insertByte k b m) :
    d = (k, b) ∨ d ∈ m := by
  induction m with
  | nil => simpa [insertByte] using h
  | cons c rest ih =>
    unfold insertByte at h
    split_ifs at h
    · simpa using h
    · rcases List.mem_cons.mp h with h | h
      · exact .inl h
      · exact .inr (List.mem_cons_of_mem _ h)
    · rcases List.mem_cons.mp h with h | h
      · exact .inr (h ▸ List.mem_cons_self)
      · exact (ih h).imp id (List.mem_cons_of_mem _)

theorem memoryCanonical_insertByte (m : Memory) (k : Nat) (b : Byte) (hk : k < 2 ^ 32) (hb : b ≠ unlistedByte)
    (hm : memoryCanonical m = true) : memoryCanonical (insertByte k b m) = true := by
  induction m with
  | nil => simp [insertByte, memoryCanonical, hb]; omega
  | cons c rest ih =>
    obtain ⟨h1, h2, h3, h4⟩ := (memoryCanonical_cons c rest).mp hm
    unfold insertByte
    split_ifs with hlt heq
    · refine (memoryCanonical_cons _ _).mpr ⟨hk, hb, ?_, hm⟩
      intro d hd
      rcases List.mem_cons.mp hd with hd | hd
      · simpa [hd] using hlt
      · exact lt_trans hlt (h3 d hd)
    · exact (memoryCanonical_cons _ _).mpr ⟨hk, hb, by simpa [heq] using h3, h4⟩
    · refine (memoryCanonical_cons _ _).mpr ⟨h1, h2, ?_, ih h4⟩
      intro d hd
      rcases mem_insertByte hd with hd | hd
      · subst hd; simp; omega
      · exact h3 d hd

theorem memoryCanonical_filter (m : Memory) (p : Host.Cell → Bool) (hm : memoryCanonical m = true) :
    memoryCanonical (m.filter p) = true := by
  induction m with
  | nil => simpa using hm
  | cons c rest ih =>
    obtain ⟨h1, h2, h3, h4⟩ := (memoryCanonical_cons c rest).mp hm
    rw [List.filter_cons]
    split_ifs
    · exact (memoryCanonical_cons _ _).mpr ⟨h1, h2, fun d hd => h3 d (List.mem_of_mem_filter hd), ih h4⟩
    · exact ih h4

/-- Storing a byte keeps the canonical form. -/
theorem wf_storeByte (m : Memory) (k : Nat) (b : Byte) (hk : k < 2 ^ 32) (hm : Memory.wf m = true) :
    Memory.wf (storeByte m k b) = true := by
  unfold storeByte
  split_ifs with hb
  · exact memoryCanonical_filter m _ hm
  · exact memoryCanonical_insertByte m k b hk hb hm

theorem wf_writeByte (s : State) (a : Word) (b : Byte) (h : Memory.wf s.mem = true) :
    Memory.wf (s.writeByte a b).mem = true := by
  simpa using wf_storeByte s.mem a.toNat b a.isLt h

theorem wf_writeHalf (s : State) (a : Word) (v : Half) (h : Memory.wf s.mem = true) :
    Memory.wf (s.writeHalf a v).mem = true :=
  wf_writeByte _ _ _ (wf_writeByte _ _ _ h)

theorem wf_writeWord (s : State) (a v : Word) (h : Memory.wf s.mem = true) :
    Memory.wf (s.writeWord a v).mem = true :=
  wf_writeByte _ _ _ (wf_writeByte _ _ _ (wf_writeByte _ _ _ (wf_writeByte _ _ _ h)))

/-- Memory at reset is canonical. -/
theorem wf_reset : Memory.wf State.reset.mem = true := rfl

-- ## Data accesses

theorem getLsbD_zero_eq (v : Word) : v.getLsbD 0 = decide (v.toNat % 2 = 1) := by
  simp only [BitVec.getLsbD, Nat.testBit_zero]

theorem getLsbD_one_eq (v : Word) : v.getLsbD 1 = decide (v.toNat / 2 % 2 = 1) := by
  simp only [BitVec.getLsbD, Nat.testBit_succ, Nat.testBit_zero]

theorem alignedAt_half_iff (ea : Word) : AccessWidth.half.alignedAt ea = true ↔ ea.toNat % 2 = 0 := by
  rw [AccessWidth.alignedAt, getLsbD_zero_eq, Bool.not_eq_true', decide_eq_false_iff_not]
  omega

theorem alignedAt_word_iff (ea : Word) : AccessWidth.word.alignedAt ea = true ↔ ea.toNat % 4 = 0 := by
  rw [AccessWidth.alignedAt, getLsbD_zero_eq, getLsbD_one_eq, Bool.and_eq_true, Bool.not_eq_true', Bool.not_eq_true',
    decide_eq_false_iff_not, decide_eq_false_iff_not]
  omega

theorem accessOrAe_aligned {w : AccessWidth} {ea : Word} (s done : State) (h : w.alignedAt ea = true) :
    accessOrAe w ea s done = .next done := by simp [accessOrAe, h]

theorem accessOrAe_misaligned {w : AccessWidth} {ea : Word} (s done : State) (h : w.alignedAt ea = false) :
    accessOrAe w ea s done = .next s.takeAe := by simp [accessOrAe, h]

/-- All a data access can do: what it is given to do, or the address exception. -/
theorem accessOrAe_cases {w : AccessWidth} {ea : Word} {s done t : State} (h : accessOrAe w ea s done = .next t) :
    (w.alignedAt ea = true ∧ t = done) ∨ (w.alignedAt ea = false ∧ t = s.takeAe) := by
  unfold accessOrAe at h
  injection h with h
  split_ifs at h with ha
  · exact .inl ⟨ha, h.symm⟩
  · exact .inr ⟨by simpa using ha, h.symm⟩

-- ## EIT entry and return

theorem getLsbD_pswAtEntry (k : EitKind) (psw : Word) (j : Nat) :
    (pswAtEntry k psw).getLsbD j =
      if j = 15 then psw.getLsbD 7 else if j = 14 then psw.getLsbD 6 else if j = 8 then psw.getLsbD 0
      else if j = 7 then (decide (k ≠ .ei) && psw.getLsbD 7) else false := by
  by_cases hj : j < 32
  · unfold pswAtEntry
    interval_cases j <;> by_cases hk : k = .ei <;> simp [hk]
  · rw [BitVec.getLsbD_of_ge _ j (by omega), if_neg (by omega), if_neg (by omega), if_neg (by omega),
      if_neg (by omega)]

theorem getLsbD_bpcMask (v : Word) (j : Nat) : (v &&& bpcMask).getLsbD j = (decide (j ≠ 0) && v.getLsbD j) := by
  by_cases hj : j < 32
  · interval_cases j <;> simp [bpcMask]
  · rw [BitVec.getLsbD_of_ge _ j (by omega), BitVec.getLsbD_of_ge v j (by omega), Bool.and_false]

theorem and_bpcMask_of_even {v : Word} (h : v.getLsbD 0 = false) : v &&& bpcMask = v := by
  apply BitVec.eq_of_getLsbD_eq
  intro j _
  rw [getLsbD_bpcMask]
  by_cases hj : j = 0 <;> simp_all

/-- Everything an EIT entry does (R420). -/
theorem entersEit_takeEit (s : State) (k : EitKind) (b : Word) (hb : b.getLsbD 0 = false) :
    EntersEit k b s (s.takeEit k b) where
  pc := rfl
  bpc := by simp [and_bpcMask_of_even hb]
  bsm := getLsbD_pswAtEntry k s.psw 15
  bie := getLsbD_pswAtEntry k s.psw 14
  bc := getLsbD_pswAtEntry k s.psw 8
  sm := by
    rw [State.sm, takeEit_psw, getLsbD_pswAtEntry]
    by_cases hk : k = .ei <;> simp [hk, State.sm]
  ie := getLsbD_pswAtEntry k s.psw 6
  c := getLsbD_pswAtEntry k s.psw 0
  reserved := by
    apply BitVec.eq_of_getLsbD_eq
    intro j hj
    rw [BitVec.getLsbD_and, takeEit_psw, getLsbD_pswAtEntry]
    interval_cases j <;> simp
  returnDefined := ⟨rfl, rfl⟩
  gpr := fun r h => reg_congr_low (s := s) (t := s.takeEit k b) rfl r h
  spi := rfl
  spu := rfl
  acc := rfl
  lock := rfl
  mem := fun _ => rfl
  vectors := rfl

end Sys2Proof.Machine
end

