-- ==== Sys2Proof/Laws/Frame.lean ====
section
/-! SUPPORT. The frame of each way an instruction can end, said once. -/

namespace Sys2Proof.Machine

/-- The frame of two states that agree in every field but the program counter, the general registers, PSW and memory. -/
theorem frame_of {regs : List Reg} {parts : List Part} {stored : List Word} {s t : State}
    (gpr : ∀ r : Reg, r.val < 15 → r ∉ regs → t.reg r = s.reg r)
    (spi : Part.spi ∉ parts → ((15 : Reg) ∈ regs → s.sm = true) → t.spi = s.spi)
    (spu : Part.spu ∉ parts → ((15 : Reg) ∈ regs → s.sm = false) → t.spu = s.spu)
    (c : Part.c ∉ parts → Part.psw ∉ parts → t.c = s.c)
    (psw : Part.psw ∉ parts → ∀ k, 0 < k → t.psw.getLsbD k = s.psw.getLsbD k)
    (mem : ∀ a : Word, a ∉ stored → t.readByte a = s.readByte a)
    (opens : (Part.psw ∉ parts → t.bpswOpen = s.bpswOpen) ∧ (Part.bpc ∉ parts → t.bpcOpen = s.bpcOpen))
    (rest : (Part.bpc ∉ parts → t.bpc = s.bpc) ∧ (Part.fpsr ∉ parts → t.fpsr = s.fpsr) ∧
      (Part.acc ∉ parts → t.acc = s.acc) ∧ (Part.lock ∉ parts → t.lockBit = s.lockBit) ∧
      t.vectors = s.vectors ∧ t.intRequests = s.intRequests) : Frame regs parts stored s t :=
  ⟨gpr, spi, spu, c, psw, rest.1, opens.1, opens.2, rest.2.1, rest.2.2.1, rest.2.2.2.1, mem, rest.2.2.2.2.1, rest.2.2.2.2.2⟩

/-- Frames compose along a step that leaves SM as it is. -/
theorem Frame.trans {r₁ r₂ : List Reg} {p₁ p₂ : List Part} {m₁ m₂ : List Word} {s t u : State}
    (h₁ : Frame r₁ p₁ m₁ s t) (h₂ : Frame r₂ p₂ m₂ t u) (hsm : t.sm = s.sm) :
    Frame (r₁ ++ r₂) (p₁ ++ p₂) (m₁ ++ m₂) s u where
  gpr r hr h := by
    simp only [List.mem_append, not_or] at h
    rw [h₂.gpr r hr h.2, h₁.gpr r hr h.1]
  spi hp hr := by
    simp only [List.mem_append, not_or] at hp hr
    rw [h₂.spi hp.2 (fun h => hsm ▸ hr (.inr h)), h₁.spi hp.1 (fun h => hr (.inl h))]
  spu hp hr := by
    simp only [List.mem_append, not_or] at hp hr
    rw [h₂.spu hp.2 (fun h => hsm ▸ hr (.inr h)), h₁.spu hp.1 (fun h => hr (.inl h))]
  c hc hp := by
    simp only [List.mem_append, not_or] at hc hp
    rw [h₂.c hc.2 hp.2, h₁.c hc.1 hp.1]
  psw hp k hk := by
    simp only [List.mem_append, not_or] at hp
    rw [h₂.psw hp.2 k hk, h₁.psw hp.1 k hk]
  bpc hp := by
    simp only [List.mem_append, not_or] at hp
    rw [h₂.bpc hp.2, h₁.bpc hp.1]
  bpswOpen hp := by
    simp only [List.mem_append, not_or] at hp
    rw [h₂.bpswOpen hp.2, h₁.bpswOpen hp.1]
  bpcOpen hp := by
    simp only [List.mem_append, not_or] at hp
    rw [h₂.bpcOpen hp.2, h₁.bpcOpen hp.1]
  fpsr hp := by
    simp only [List.mem_append, not_or] at hp
    rw [h₂.fpsr hp.2, h₁.fpsr hp.1]
  acc hp := by
    simp only [List.mem_append, not_or] at hp
    rw [h₂.acc hp.2, h₁.acc hp.1]
  lock hp := by
    simp only [List.mem_append, not_or] at hp
    rw [h₂.lock hp.2, h₁.lock hp.1]
  mem a ha := by
    simp only [List.mem_append, not_or] at ha
    rw [h₂.mem a ha.2, h₁.mem a ha.1]
  vectors := h₂.vectors.trans h₁.vectors
  intRequests := h₂.intRequests.trans h₁.intRequests

/-- A frame that allows more. -/
theorem Frame.mono {r₁ r₂ : List Reg} {p₁ p₂ : List Part} {m₁ m₂ : List Word} {s t : State}
    (h : Frame r₁ p₁ m₁ s t) (hr : r₁ ⊆ r₂) (hp : p₁ ⊆ p₂) (hm : m₁ ⊆ m₂) : Frame r₂ p₂ m₂ s t where
  gpr r h15 hn := h.gpr r h15 (fun hc => hn (hr hc))
  spi hn hs := h.spi (fun hc => hn (hp hc)) (fun hc => hs (hr hc))
  spu hn hs := h.spu (fun hc => hn (hp hc)) (fun hc => hs (hr hc))
  c hc hn := h.c (fun x => hc (hp x)) (fun x => hn (hp x))
  psw hn := h.psw (fun x => hn (hp x))
  bpc hn := h.bpc (fun x => hn (hp x))
  bpswOpen hn := h.bpswOpen (fun x => hn (hp x))
  bpcOpen hn := h.bpcOpen (fun x => hn (hp x))
  fpsr hn := h.fpsr (fun x => hn (hp x))
  acc hn := h.acc (fun x => hn (hp x))
  lock hn := h.lock (fun x => hn (hp x))
  mem a ha := h.mem a (fun x => ha (hm x))
  vectors := h.vectors
  intRequests := h.intRequests

/-- Only the program counter, the count of draws and what `parts` names differ. -/
theorem frame_pc (s : State) (pc : Word) (draws : Nat) (parts : List Part) :
    Frame [] parts [] s { s with pc := pc, draws := draws } :=
  frame_of (fun _ _ _ => rfl) (fun _ _ => rfl) (fun _ _ => rfl) (fun _ _ => rfl) (fun _ _ _ => rfl)
    (fun _ _ => rfl) ⟨fun _ => rfl, fun _ => rfl⟩ ⟨fun _ => rfl, fun _ => rfl, fun _ => rfl, fun _ => rfl, rfl, rfl⟩

theorem frame_advance (s : State) (n : Word) : Frame [] [] [] s (s.advance n) := frame_pc s _ _ _
theorem frame_jumpTo (s : State) (a : Word) : Frame [] [] [] s (s.jumpTo a) := frame_pc s _ _ _

theorem frame_setReg (s : State) (d : Reg) (v : Word) : Frame [d] [] [] s (s.setReg d v) :=
  frame_of (fun r _ h => reg_setReg_of_ne s v (by simpa using h))
    (fun _ h => spi_setReg s d v (fun e => h (by simp [e])))
    (fun _ h => spu_setReg s d v (fun e => h (by simp [e])))
    (fun _ _ => c_setReg s d v) (fun _ _ _ => by simp) (fun a _ => readByte_congr (by simp) a) (by simp) (by simp)

theorem frame_setC (s : State) (b : Bool) : Frame [] [.c] [] s (s.setC b) :=
  frame_of (fun r _ _ => reg_setC s b r) (fun _ _ => rfl) (fun _ _ => rfl) (fun h _ => absurd (by simp) h)
    (fun _ k hk => psw_setC_getLsbD s b k hk) (fun _ _ => rfl)
    ⟨fun _ => rfl, fun _ => rfl⟩ ⟨fun _ => rfl, fun _ => rfl, fun _ => rfl, fun _ => rfl, rfl, rfl⟩

theorem frame_acc (s : State) (v : Acc) (draws : Nat) :
    Frame [] [.acc] [] s { s with acc := v, draws := draws } :=
  frame_of (fun _ _ _ => rfl) (fun _ _ => rfl) (fun _ _ => rfl) (fun _ _ => rfl) (fun _ _ _ => rfl)
    (fun _ _ => rfl) ⟨fun _ => rfl, fun _ => rfl⟩ ⟨fun _ => rfl, fun _ => rfl, fun h => absurd (by simp) h, fun _ => rfl, rfl, rfl⟩

theorem frame_lock (s : State) (b : Bool) : Frame [] [.lock] [] s { s with lockBit := b } :=
  frame_of (fun _ _ _ => rfl) (fun _ _ => rfl) (fun _ _ => rfl) (fun _ _ => rfl) (fun _ _ _ => rfl)
    (fun _ _ => rfl) ⟨fun _ => rfl, fun _ => rfl⟩ ⟨fun _ => rfl, fun _ => rfl, fun _ => rfl, fun h => absurd (by simp) h, rfl, rfl⟩

theorem frame_fpsr (s : State) (v : Word) : Frame [] [.fpsr] [] s { s with fpsr := v } :=
  frame_of (fun _ _ _ => rfl) (fun _ _ => rfl) (fun _ _ => rfl) (fun _ _ => rfl) (fun _ _ _ => rfl)
    (fun _ _ => rfl) ⟨fun _ => rfl, fun _ => rfl⟩ ⟨fun _ => rfl, fun h => absurd (by simp) h, fun _ => rfl, fun _ => rfl, rfl, rfl⟩

/-- PSW written whole: R0 to R14 and both stack pointers keep their values. -/
theorem frame_psw (s : State) (v : Word) (b : Bool) : Frame [] [.psw] [] s { s with psw := v, bpswOpen := b } :=
  frame_of (fun r h _ => reg_congr_low (s := s) (t := { s with psw := v, bpswOpen := b }) rfl r h) (fun _ _ => rfl)
    (fun _ _ => rfl) (fun _ h => absurd (by simp) h) (fun h => absurd (by simp) h)
    (fun _ _ => rfl) ⟨fun h => absurd (by simp) h, fun _ => rfl⟩ ⟨fun _ => rfl, fun _ => rfl, fun _ => rfl, fun _ => rfl, rfl, rfl⟩

theorem frame_mem (s : State) (m : Memory) (stored : List Word)
    (h : ∀ a : Word, a ∉ stored → lookupByte m a.toNat = s.readByte a) :
    Frame [] [] stored s { s with mem := m } :=
  frame_of (fun _ _ _ => rfl) (fun _ _ => rfl) (fun _ _ => rfl) (fun _ _ => rfl) (fun _ _ _ => rfl)
    h ⟨fun _ => rfl, fun _ => rfl⟩ ⟨fun _ => rfl, fun _ => rfl, fun _ => rfl, fun _ => rfl, rfl, rfl⟩

theorem frame_writeByte (s : State) (a : Word) (b : Byte) :
    Frame [] [] (AccessWidth.byte.bytesAt a) s (s.writeByte a b) :=
  frame_mem s _ _ (fun x h => by
    have := readByte_writeByte s a x b
    rw [if_neg (by simpa [AccessWidth.bytesAt] using h)] at this
    exact this)

theorem frame_writeHalf (s : State) (a : Word) (v : Half) :
    Frame [] [] (AccessWidth.half.bytesAt a) s (s.writeHalf a v) :=
  frame_of (fun _ _ _ => by simp) (fun _ _ => by simp) (fun _ _ => by simp) (fun _ _ => by simp)
    (fun _ _ _ => by simp) (fun x h => readByte_writeHalf_of_not_mem s a x v h) (by simp) (by simp)

theorem frame_writeWord (s : State) (a v : Word) :
    Frame [] [] (AccessWidth.word.bytesAt a) s (s.writeWord a v) :=
  frame_of (fun _ _ _ => by simp) (fun _ _ => by simp) (fun _ _ => by simp) (fun _ _ => by simp)
    (fun _ _ _ => by simp) (fun x h => readByte_writeWord_of_not_mem s a x v h) (by simp) (by simp)

-- ## Endings of instructions

/-- An instruction that writes one register and goes on. -/
theorem writesReg_of {i : Instr} {s : State} {n : Word} {d : Reg} {v : Word}
    (h : exec i s = .next ((s.setReg d v).advance n)) : WritesReg i s n d v :=
  ⟨_, h, by simp, (frame_setReg s d v).trans (frame_advance _ n) (by simp), by simp⟩

/-- An instruction that writes the condition bit and goes on. -/
theorem writesC_of {i : Instr} {s : State} {n : Word} {b : Bool}
    (h : exec i s = .next ((s.setC b).advance n)) : WritesC i s n b :=
  ⟨_, h, by simp, (frame_setC s b).trans (frame_advance _ n) (by simp), by simp⟩

/-- An instruction that writes one register and the condition bit and goes on. -/
theorem completes_of_setReg_setC {i : Instr} {s : State} {n : Word} {d : Reg} {v : Word} {b : Bool}
    (h : exec i s = .next (((s.setReg d v).setC b).advance n)) :
    Completes i s n [d] [.c] [] (fun t => t.reg d = v ∧ t.c = b) :=
  ⟨_, h, by simp, ((frame_setReg s d v).trans (frame_setC _ b) (by simp)).trans (frame_advance _ n) (by simp),
    by simp, by simp⟩

/-- An instruction that writes the accumulator and goes on. -/
theorem writesAcc_of {i : Instr} {s : State} {v : Int}
    (h : exec i s = .next ((s.setAccInt v).advance 2)) : WritesAcc i s v :=
  ⟨_, h, by simp, (frame_acc s _ s.draws).trans (frame_advance _ 2) rfl, by simp⟩

/-- An instruction that only goes somewhere. -/
theorem goesTo_of {i : Instr} {s : State} {a : Word} (h : exec i s = .next (s.jumpTo a)) :
    GoesTo i s [] a (fun _ => True) :=
  ⟨_, h, rfl, frame_jumpTo s a, trivial⟩

/-- A conditional branch, taken or not. -/
theorem goesTo_of_branchIf {i : Instr} {s : State} {w : Nat} {taken : Bool} {p : BitVec w} {n : Word}
    (h : exec i s = .next (if taken then s.jumpTo (branchTarget s.pc p) else s.advance n)) :
    GoesTo i s [] (if taken then branchTarget s.pc p else s.pc + n) (fun _ => True) := by
  refine ⟨_, h, ?_, ?_, trivial⟩
  · cases taken <;> rfl
  · cases taken
    · exact frame_advance s n
    · exact frame_jumpTo s _

end Sys2Proof.Machine
end

