-- ==== Sys2Proof/Laws/Endings.lean ====
section
/-! SUPPORT. What each shared ending of an instruction, and a step, can do: if it answers a next state, then which. -/

namespace Sys2Proof.Machine

/-- An FPU instruction completes with its word, or takes the FPE; nothing else (R340). -/
theorem completeFp_cases {d : Reg} {r : FpResult} {s t : State} (h : completeFp d r s = .next t) :
    (∃ v, r.val = some v ∧ r.raised.forced s.fpsr = false ∧
      t = ({ s with fpsr := fpsrWithCauses s.fpsr r.raised ||| r.raised.flagBits }.setReg d v).advance 4) ∨
    ((r.val = none ∨ r.raised.forced s.fpsr = true) ∧
      t = { s with fpsr := fpsrWithCauses s.fpsr r.raised }.takeEit .fpe (s.pc + 4)) := by
  unfold completeFp at h
  split at h
  · rename_i v hv hf
    exact .inl ⟨v, hv, hf, by simpa [endLong] using h.symm⟩
  · rename_i hn
    refine .inr ⟨?_, by simpa using h.symm⟩
    rcases hv : r.val with _ | v
    · exact .inl rfl
    · exact .inr (by simpa using hn v hv)

/-- A conditional branch goes to its target or to the next instruction. -/
theorem branchIf_cases {w : Nat} {taken : Bool} {p : BitVec w} {n : Word} {s t : State}
    (h : branchIf taken p n s = .next t) :
    (taken = true ∧ t = s.jumpTo (branchTarget s.pc p)) ∨ (taken = false ∧ t = s.advance n) := by
  cases taken
  · exact .inr ⟨rfl, by simpa [branchIf] using h.symm⟩
  · exact .inl ⟨rfl, by simpa [branchIf] using h.symm⟩

/-- A branch with link writes R14 and goes to its target. -/
theorem branchAndLink_cases {a : Word} {s t : State} (h : branchAndLink a s = .next t) :
    t = (s.setReg linkReg (linkAddress s.pc)).jumpTo a := by
  simpa [branchAndLink] using h.symm

/-- All that writing a control register can do (R29, R32, R35, R38, R48). -/
theorem writeCtrl_cases {n : CtrlNum} {v : Word} {s t : State} (h : s.writeCtrl n v = some t) :
    (n = 0 ∧ t = s.setPsw v) ∨ (n = 1 ∧ t = s) ∨ (n = 2 ∧ t = { s with spi := v }) ∨
      (n = 3 ∧ t = { s with spu := v }) ∨ (n = 6 ∧ t = s.setBpc v) ∨
      (n = 7 ∧ t = { s with fpsr := fpsrWritten s.fpsr v }) := by
  unfold State.writeCtrl at h
  split_ifs at h <;> simp_all

/-- What MVTC can do. -/
theorem execMvtc_cases {r : Reg} {n : CtrlNum} {s t : State} (h : execMvtc r n s = .next t) :
    ∃ u, s.writeCtrl n (s.reg r) = some u ∧ t = u.advance 2 := by
  unfold execMvtc at h
  split at h
  · rename_i u hu
    exact ⟨u, hu, by simpa [endShort] using h.symm⟩
  · cases h

/-- What MVFC can do. -/
theorem execMvfc_cases {d : Reg} {n : CtrlNum} {s t : State} (h : execMvfc d n s = .next t) :
    ∃ v, s.readCtrl n = some v ∧ t = (s.setReg d v).advance 2 := by
  unfold execMvfc at h
  split at h
  · rename_i v hv
    exact ⟨v, hv, by simpa [endShort] using h.symm⟩
  · cases h

/-- What RTE can do. -/
theorem execRte_cases {s t : State} (h : execRte s = .next t) :
    s.bpswOpen = false ∧ s.bpcOpen = false ∧ t = s.returnFromEit := by
  unfold execRte at h
  split at h
  · rename_i hd
    simp only [State.returnDefined, Bool.and_eq_true, Bool.not_eq_true'] at hd
    exact ⟨hd.1, hd.2, by simpa using h.symm⟩
  · cases h

/-- The bits of PSW after RTE. -/
theorem getLsbD_pswAfterRte (psw : Word) (b : BitVec 3) (j : Nat) :
    (pswAfterRte psw b).getLsbD j =
      if j = 7 then psw.getLsbD 15 else if j = 6 then psw.getLsbD 14 else if j = 0 then psw.getLsbD 8
      else if j = 15 then b.getLsbD 2 else if j = 14 then b.getLsbD 1 else if j = 8 then b.getLsbD 0 else false := by
  by_cases hj : j < 32
  · unfold pswAfterRte
    rw [BitVec.getLsbD_or, getLsbD_putBit _ _ _ _ (by omega), getLsbD_putBit _ _ _ _ (by omega),
      getLsbD_putBit _ _ _ _ (by omega)]
    interval_cases j <;> simp
  · rw [BitVec.getLsbD_of_ge _ j (by omega)]
    simp [show j ≠ 7 ∧ j ≠ 6 ∧ j ≠ 0 ∧ j ≠ 15 ∧ j ≠ 14 ∧ j ≠ 8 by omega]

/-- What a step can do: take the interrupt, or run the instruction it fetches. -/
theorem step_cases {s t : State} (h : step s = .next t) :
    (s.acceptsInterrupt = true ∧ t = s.pastBoundary.takeInterrupt) ∨
    (s.acceptsInterrupt = false ∧ ∃ i, s.fetchInstr = .ok i ∧ exec i s.pastBoundary = .next t) := by
  unfold step at h
  split at h
  · rename_i ha
    exact .inl ⟨ha, by simpa using h.symm⟩
  · rename_i ha
    split at h
    · rename_i i hi
      exact .inr ⟨by simpa using ha, i, hi, h⟩
    · cases h

end Sys2Proof.Machine
end

