-- ==== Sys2Proof/Laws/Float.lean ====
section
/-! SUPPORT. The floating-point helpers, once: powers of two, the bits of the exception sets, and the frame every FPU
instruction ends in (46_float_common.md R340). -/

namespace Sys2Proof.Machine

theorem twoPow_eq (e : Int) : twoPow e = (2 : ℚ) ^ e := by
  cases e with
  | ofNat n => simp [twoPow, Rat.mkRat_eq_div]
  | negSucc n => simp [twoPow, Rat.mkRat_eq_div, zpow_negSucc]

theorem twoPow_pos (e : Int) : 0 < twoPow e := by rw [twoPow_eq]; positivity

theorem mkRat_one (n : Int) : mkRat n 1 = n := by simp [Rat.mkRat_eq_div]

/-- The bits of a set of causes. -/
theorem getLsbD_causeBits (x : FpExceptions) (k : Nat) :
    x.causeBits.getLsbD k =
      if k = 7 then x.uipl else if k = 6 then x.ixct else if k = 5 then x.udf else if k = 4 then x.div0
      else if k = 3 then x.ovf else if k = 2 then x.ivld else false := by
  unfold FpExceptions.causeBits
  show BitVec.getLsbD (w := 24 + 1 + 1 + 1 + 1 + 1 + 1 + 2) _ k = _
  simp only [BitVec.getLsbD_append, BitVec.getLsbD_ofBool, BitVec.getLsbD_zero]
  split_ifs <;> first | rfl | omega | (simp; omega)

/-- The bits of a set of flags. -/
theorem getLsbD_flagBits (x : FpExceptions) (k : Nat) :
    x.flagBits.getLsbD k =
      if k = 30 then x.ixct else if k = 29 then x.udf else if k = 28 then x.div0 else if k = 27 then x.ovf
      else if k = 26 then x.ivld else false := by
  unfold FpExceptions.flagBits
  show BitVec.getLsbD (w := 1 + 1 + 1 + 1 + 1 + 1 + 26) _ k = _
  simp only [BitVec.getLsbD_append, BitVec.getLsbD_ofBool, BitVec.getLsbD_zero]
  split_ifs <;> first | rfl | omega | (simp; omega)

/-- The bits of FPSR after an FPU instruction set its causes. -/
theorem getLsbD_fpsrWithCauses (fpsr : Word) (x : FpExceptions) (k : Nat) :
    (fpsrWithCauses fpsr x).getLsbD k = if 2 ≤ k ∧ k ≤ 7 then x.causeBits.getLsbD k else fpsr.getLsbD k := by
  unfold fpsrWithCauses
  by_cases h : k < 32
  · rw [BitVec.getLsbD_or, BitVec.getLsbD_and, getLsbD_causeBits]
    interval_cases k <;> simp [fpsrCauseMask, -BitVec.getLsbD_eq_getElem]
  · rw [BitVec.getLsbD_of_ge _ k (by omega), BitVec.getLsbD_of_ge fpsr k (by omega)]; simp; omega

/-- The cause bits after an FPU instruction are the exceptions raised. -/
theorem causesAre_fpsrWithCauses (fpsr : Word) (x : FpExceptions) : CausesAre (fpsrWithCauses fpsr x) x := by
  simp only [CausesAre, getLsbD_fpsrWithCauses, getLsbD_causeBits]; simp

/-- An exception forces the EIT only by UIPL or an enable bit, none of which the causes touch. -/
theorem forced_noExceptions (fpsr : Word) : noExceptions.forced fpsr = false := rfl

/-- An FPU instruction whose exceptions do not force the EIT completes with its word. -/
theorem fpuCompletes_of {i : Instr} {s : State} {d : Reg} {v : Word} {x : FpExceptions} {n : Nat}
    (h : exec i s = completeFp d ⟨some v, x⟩ { s with draws := n }) (hf : x.forced s.fpsr = false) :
    FpuCompletes i s d v x := by
  have ht : exec i s = .next
      (({ s with fpsr := fpsrWithCauses s.fpsr x ||| x.flagBits, draws := n } : State).setReg d v |>.advance 4) := by
    rw [h]; simp [completeFp, hf, endLong]
  refine ⟨_, ht, by simp, ?_, by simp, ?_, ?_, ?_⟩
  · have h1 : Frame [] [.fpsr] [] s { s with fpsr := fpsrWithCauses s.fpsr x ||| x.flagBits, draws := n } :=
      (frame_pc s s.pc n []).trans (frame_fpsr { s with draws := n } _) rfl
    exact (h1.trans (frame_setReg _ d v) rfl).trans (frame_advance _ 4) (by simp; rfl)
  · simp only [CausesAre, advance_fpsr, setReg_fpsr, BitVec.getLsbD_or, getLsbD_fpsrWithCauses, getLsbD_causeBits,
      getLsbD_flagBits]
    simp
  · simp only [FlagsRaised, advance_fpsr, setReg_fpsr, BitVec.getLsbD_or, getLsbD_fpsrWithCauses, getLsbD_flagBits]
    simp
  · intro k h1 h2
    simp only [advance_fpsr, setReg_fpsr, BitVec.getLsbD_or, getLsbD_fpsrWithCauses, getLsbD_flagBits]
    rw [if_neg (by omega), if_neg (by omega), if_neg (by omega), if_neg (by omega), if_neg (by omega),
      if_neg (by omega), Bool.or_false]

/-- An FPU instruction whose exceptions force the EIT, or that has no word, takes the FPE. -/
theorem takesFpe_of {i : Instr} {s : State} {d : Reg} {r : FpResult} {n : Nat} (hpc : s.pc.getLsbD 0 = false)
    (h : exec i s = completeFp d r { s with draws := n }) (hf : r.val = none ∨ r.raised.forced s.fpsr = true) :
    TakesFpe i s r.raised := by
  have ht : exec i s = .next
      (({ s with fpsr := fpsrWithCauses s.fpsr r.raised, draws := n } : State).takeEit .fpe (s.pc + 4)) := by
    rw [h, completeFp]
    rcases hf with hf | hf
    · simp [hf]
    · simp [hf]
  have hb : (s.pc + 4).getLsbD 0 = false := by
    rw [getLsbD_zero_eq, decide_eq_false_iff_not] at hpc ⊢
    rw [BitVec.toNat_add]; simp; omega
  have he := entersEit_takeEit { s with fpsr := fpsrWithCauses s.fpsr r.raised, draws := n } .fpe (s.pc + 4) hb
  refine ⟨_, ht, ⟨he.pc, he.bpc, he.bsm, he.bie, he.bc, he.sm, he.ie, he.c, he.reserved,
    he.returnDefined, he.gpr, he.spi, he.spu, he.acc, he.lock, he.mem, he.vectors⟩, causesAre_fpsrWithCauses _ _, ?_, ?_, rfl⟩
  · simp only [FlagsRaised, takeEit_fpsr, getLsbD_fpsrWithCauses, noExceptions]; simp
  · intro k h1 _
    rw [takeEit_fpsr, getLsbD_fpsrWithCauses, if_neg (by omega)]

/-- An FPU instruction whose result has no word only where its exceptions force the EIT ends as R340 says, whatever
it draws. -/
theorem fpuEnds_of {i : Instr} {s : State} {d : Reg} {r : FpResult} {n : Nat}
    (h : exec i s = completeFp d r { s with draws := n }) (hn : r.val = none → r.raised.forced s.fpsr = true) :
    FpuEnds i s d r := by
  refine ⟨fun hf hpc => takesFpe_of hpc h (.inr hf), fun hf => ?_⟩
  rcases hv : r.val with _ | v
  · simp [hn hv] at hf
  · exact ⟨v, rfl, fpuCompletes_of (by rw [h, show r = ⟨some v, r.raised⟩ by rw [← hv]]) hf⟩

/-- How the operand classes end an operation before any arithmetic (R334). -/
theorem screenOperands_some {fpsr a b : Word} {r : FpResult} (h : screenOperands fpsr a b = some r) :
    (r = invalid (nan2 a b) ∧ (fpClass a = .snan ∨ fpClass b = .snan)) ∨
    (r = exactly (nan2 a b) ∧ fpClass a ≠ .snan ∧ fpClass b ≠ .snan ∧ (fpClass a = .qnan ∨ fpClass b = .qnan)) ∨
    (r = unimplemented ∧ fpIsNan a = false ∧ fpIsNan b = false ∧ fpsrDn fpsr = false ∧
      (fpClass a = .denormal ∨ fpClass b = .denormal)) := by
  unfold screenOperands at h
  split_ifs at h with h1 h2 h3
  · exact .inl ⟨by simpa using h.symm, h1⟩
  · exact .inr (.inl ⟨by simpa using h.symm, fun e => h1 (.inl e), fun e => h1 (.inr e), h2⟩)
  · refine .inr (.inr ⟨by simpa using h.symm, ?_, ?_, ?_, ?_⟩)
    all_goals simp_all [fpIsNan, fpUnsupported]
    · tauto
    · tauto

/-- Where the operand classes let the arithmetic be reached: no NaN, and a denormalized operand only with DN = 1. -/
theorem screenOperands_none {fpsr a b : Word} (h : screenOperands fpsr a b = none) :
    fpIsNan a = false ∧ fpIsNan b = false ∧ fpUnsupported fpsr a = false ∧ fpUnsupported fpsr b = false := by
  unfold screenOperands at h
  split_ifs at h with h1 h2 h3
  simp_all [fpIsNan]

/-- Everything `deliver` can answer (R326 to R329). -/
theorem deliver_cases (fpsr : Word) (q : ℚ) (mode : RoundMode) (zsign : Bool) :
    (q = 0 ∧ deliver fpsr q mode zsign = exactly (signedZero zsign)) ∨
    (q ≠ 0 ∧ |q| < twoPow (-126) ∧ (fpsrEnables fpsr).udf = true ∧
      deliver fpsr q mode zsign = ⟨none, { udf := true }⟩) ∨
    (q ≠ 0 ∧ |q| < twoPow (-126) ∧ (fpsrEnables fpsr).udf = false ∧ fpsrDn fpsr = true ∧
      deliver fpsr q mode zsign = ⟨some (signedZero (decide (q < 0))), { udf := true }⟩) ∨
    (q ≠ 0 ∧ |q| < twoPow (-126) ∧ (fpsrEnables fpsr).udf = false ∧ fpsrDn fpsr = false ∧
      deliver fpsr q mode zsign = ⟨none, { udf := true, uipl := true }⟩) ∨
    (twoPow (-126) ≤ |q| ∧ 127 < (round24 q mode).exp ∧ (fpsrEnables fpsr).ovf = true ∧
      deliver fpsr q mode zsign = ⟨none, { ovf := true }⟩) ∨
    (twoPow (-126) ≤ |q| ∧ 127 < (round24 q mode).exp ∧ (fpsrEnables fpsr).ovf = false ∧
      deliver fpsr q mode zsign =
        ⟨some (ovfValue (round24 q mode).sign (fpsrMode fpsr)), { ovf := true, ixct := true }⟩) ∨
    (twoPow (-126) ≤ |q| ∧ (round24 q mode).exp ≤ 127 ∧
      deliver fpsr q mode zsign = ⟨some (round24 q mode).word, { ixct := (round24 q mode).inexact }⟩) := by
  have habs : (if q < 0 then -q else q) = |q| := by
    split_ifs with hq
    · exact (abs_of_neg hq).symm
    · exact (abs_of_nonneg (not_lt.mp hq)).symm
  unfold deliver
  rw [habs]
  dsimp only
  split_ifs with h1 h2 h3 h4 h5 h6 <;> simp_all

/-- `deliver` has no word only where its exceptions force the EIT (R340). -/
theorem forced_of_deliver {fpsr : Word} {q : ℚ} {mode : RoundMode} {zsign : Bool}
    (h : (deliver fpsr q mode zsign).val = none) : (deliver fpsr q mode zsign).raised.forced fpsr = true := by
  rcases deliver_cases fpsr q mode zsign with ⟨_, e⟩ | ⟨_, _, hu, e⟩ | ⟨_, _, _, _, e⟩ | ⟨_, _, _, _, e⟩ |
    ⟨_, _, hu, e⟩ | ⟨_, _, _, e⟩ | ⟨_, _, e⟩ <;> rw [e] at h ⊢ <;> simp_all [exactly, FpExceptions.forced]

end Sys2Proof.Machine
end

