-- ==== Sys2Proof/Laws/PerInstr.lean ====
section
/-! SUPPORT. One statement for every instruction: its bytes are as many as its length says (30_encoding.md R110). -/

namespace Sys2Proof.Laws.EncodedLength

/-- The instruction is stored in four bytes if it has 32 bits, else in two. -/
def Statement (i : Instr) : Prop := (encodeBytes i).length = if i.isLong then 4 else 2

theorem ld (dest : Reg) (src : Reg) : Statement (.ld dest src) := rfl
theorem ldPostInc (dest : Reg) (src : Reg) : Statement (.ldPostInc dest src) := rfl
theorem ldDisp (dest : Reg) (disp16 : BitVec 16) (src : Reg) : Statement (.ldDisp dest disp16 src) := rfl
theorem ldb (dest : Reg) (src : Reg) : Statement (.ldb dest src) := rfl
theorem ldbDisp (dest : Reg) (disp16 : BitVec 16) (src : Reg) : Statement (.ldbDisp dest disp16 src) := rfl
theorem ldub (dest : Reg) (src : Reg) : Statement (.ldub dest src) := rfl
theorem ldubDisp (dest : Reg) (disp16 : BitVec 16) (src : Reg) : Statement (.ldubDisp dest disp16 src) := rfl
theorem ldh (dest : Reg) (src : Reg) : Statement (.ldh dest src) := rfl
theorem ldhDisp (dest : Reg) (disp16 : BitVec 16) (src : Reg) : Statement (.ldhDisp dest disp16 src) := rfl
theorem lduh (dest : Reg) (src : Reg) : Statement (.lduh dest src) := rfl
theorem lduhDisp (dest : Reg) (disp16 : BitVec 16) (src : Reg) : Statement (.lduhDisp dest disp16 src) := rfl
theorem lock (dest : Reg) (src : Reg) : Statement (.lock dest src) := rfl
theorem st (src1 : Reg) (src2 : Reg) : Statement (.st src1 src2) := rfl
theorem stPreInc (src1 : Reg) (src2 : Reg) : Statement (.stPreInc src1 src2) := rfl
theorem stPreDec (src1 : Reg) (src2 : Reg) : Statement (.stPreDec src1 src2) := rfl
theorem stDisp (src1 : Reg) (disp16 : BitVec 16) (src2 : Reg) : Statement (.stDisp src1 disp16 src2) := rfl
theorem stb (src1 : Reg) (src2 : Reg) : Statement (.stb src1 src2) := rfl
theorem stbDisp (src1 : Reg) (disp16 : BitVec 16) (src2 : Reg) : Statement (.stbDisp src1 disp16 src2) := rfl
theorem sth (src1 : Reg) (src2 : Reg) : Statement (.sth src1 src2) := rfl
theorem sthPostInc (src1 : Reg) (src2 : Reg) : Statement (.sthPostInc src1 src2) := rfl
theorem sthDisp (src1 : Reg) (disp16 : BitVec 16) (src2 : Reg) : Statement (.sthDisp src1 disp16 src2) := rfl
theorem unlock (src1 : Reg) (src2 : Reg) : Statement (.unlock src1 src2) := rfl
theorem ld24 (dest : Reg) (imm24 : BitVec 24) : Statement (.ld24 dest imm24) := rfl
theorem ldi8 (dest : Reg) (imm8 : BitVec 8) : Statement (.ldi8 dest imm8) := rfl
theorem ldi16 (dest : Reg) (imm16 : BitVec 16) : Statement (.ldi16 dest imm16) := rfl
theorem seth (dest : Reg) (imm16 : BitVec 16) : Statement (.seth dest imm16) := rfl
theorem mv (dest : Reg) (src : Reg) : Statement (.mv dest src) := rfl
theorem mvfc (dest : Reg) (crsrc : CtrlNum) : Statement (.mvfc dest crsrc) := rfl
theorem mvtc (src : Reg) (crdest : CtrlNum) : Statement (.mvtc src crdest) := rfl
theorem cmp (src1 : Reg) (src2 : Reg) : Statement (.cmp src1 src2) := rfl
theorem cmpi (src : Reg) (imm16 : BitVec 16) : Statement (.cmpi src imm16) := rfl
theorem cmpu (src1 : Reg) (src2 : Reg) : Statement (.cmpu src1 src2) := rfl
theorem cmpui (src : Reg) (imm16 : BitVec 16) : Statement (.cmpui src imm16) := rfl
theorem add (dest : Reg) (src : Reg) : Statement (.add dest src) := rfl
theorem add3 (dest : Reg) (src : Reg) (imm16 : BitVec 16) : Statement (.add3 dest src imm16) := rfl
theorem addi (dest : Reg) (imm8 : BitVec 8) : Statement (.addi dest imm8) := rfl
theorem addv (dest : Reg) (src : Reg) : Statement (.addv dest src) := rfl
theorem addv3 (dest : Reg) (src : Reg) (imm16 : BitVec 16) : Statement (.addv3 dest src imm16) := rfl
theorem addx (dest : Reg) (src : Reg) : Statement (.addx dest src) := rfl
theorem neg (dest : Reg) (src : Reg) : Statement (.neg dest src) := rfl
theorem sub (dest : Reg) (src : Reg) : Statement (.sub dest src) := rfl
theorem subv (dest : Reg) (src : Reg) : Statement (.subv dest src) := rfl
theorem subx (dest : Reg) (src : Reg) : Statement (.subx dest src) := rfl
theorem and (dest : Reg) (src : Reg) : Statement (.and dest src) := rfl
theorem and3 (dest : Reg) (src : Reg) (imm16 : BitVec 16) : Statement (.and3 dest src imm16) := rfl
theorem not (dest : Reg) (src : Reg) : Statement (.not dest src) := rfl
theorem or (dest : Reg) (src : Reg) : Statement (.or dest src) := rfl
theorem or3 (dest : Reg) (src : Reg) (imm16 : BitVec 16) : Statement (.or3 dest src imm16) := rfl
theorem xor (dest : Reg) (src : Reg) : Statement (.xor dest src) := rfl
theorem xor3 (dest : Reg) (src : Reg) (imm16 : BitVec 16) : Statement (.xor3 dest src imm16) := rfl
theorem mul (dest : Reg) (src : Reg) : Statement (.mul dest src) := rfl
theorem div (dest : Reg) (src : Reg) : Statement (.div dest src) := rfl
theorem divu (dest : Reg) (src : Reg) : Statement (.divu dest src) := rfl
theorem rem (dest : Reg) (src : Reg) : Statement (.rem dest src) := rfl
theorem remu (dest : Reg) (src : Reg) : Statement (.remu dest src) := rfl
theorem sll (dest : Reg) (src : Reg) : Statement (.sll dest src) := rfl
theorem sll3 (dest : Reg) (src : Reg) (imm16 : BitVec 16) : Statement (.sll3 dest src imm16) := rfl
theorem slli (dest : Reg) (imm5 : BitVec 5) : Statement (.slli dest imm5) := rfl
theorem sra (dest : Reg) (src : Reg) : Statement (.sra dest src) := rfl
theorem sra3 (dest : Reg) (src : Reg) (imm16 : BitVec 16) : Statement (.sra3 dest src imm16) := rfl
theorem srai (dest : Reg) (imm5 : BitVec 5) : Statement (.srai dest imm5) := rfl
theorem srl (dest : Reg) (src : Reg) : Statement (.srl dest src) := rfl
theorem srl3 (dest : Reg) (src : Reg) (imm16 : BitVec 16) : Statement (.srl3 dest src imm16) := rfl
theorem srli (dest : Reg) (imm5 : BitVec 5) : Statement (.srli dest imm5) := rfl
theorem bc8 (pcdisp8 : BitVec 8) : Statement (.bc8 pcdisp8) := rfl
theorem bc24 (pcdisp24 : BitVec 24) : Statement (.bc24 pcdisp24) := rfl
theorem bnc8 (pcdisp8 : BitVec 8) : Statement (.bnc8 pcdisp8) := rfl
theorem bnc24 (pcdisp24 : BitVec 24) : Statement (.bnc24 pcdisp24) := rfl
theorem beq (src1 : Reg) (src2 : Reg) (pcdisp16 : BitVec 16) : Statement (.beq src1 src2 pcdisp16) := rfl
theorem bne (src1 : Reg) (src2 : Reg) (pcdisp16 : BitVec 16) : Statement (.bne src1 src2 pcdisp16) := rfl
theorem beqz (src : Reg) (pcdisp16 : BitVec 16) : Statement (.beqz src pcdisp16) := rfl
theorem bnez (src : Reg) (pcdisp16 : BitVec 16) : Statement (.bnez src pcdisp16) := rfl
theorem bgez (src : Reg) (pcdisp16 : BitVec 16) : Statement (.bgez src pcdisp16) := rfl
theorem bgtz (src : Reg) (pcdisp16 : BitVec 16) : Statement (.bgtz src pcdisp16) := rfl
theorem blez (src : Reg) (pcdisp16 : BitVec 16) : Statement (.blez src pcdisp16) := rfl
theorem bltz (src : Reg) (pcdisp16 : BitVec 16) : Statement (.bltz src pcdisp16) := rfl
theorem bra8 (pcdisp8 : BitVec 8) : Statement (.bra8 pcdisp8) := rfl
theorem bra24 (pcdisp24 : BitVec 24) : Statement (.bra24 pcdisp24) := rfl
theorem bl8 (pcdisp8 : BitVec 8) : Statement (.bl8 pcdisp8) := rfl
theorem bl24 (pcdisp24 : BitVec 24) : Statement (.bl24 pcdisp24) := rfl
theorem jl (src : Reg) : Statement (.jl src) := rfl
theorem jmp (src : Reg) : Statement (.jmp src) := rfl
theorem nop : Statement (.nop) := rfl
theorem trap (imm4 : Fin 16) : Statement (.trap imm4) := rfl
theorem rte : Statement (.rte) := rfl
theorem machi (src1 : Reg) (src2 : Reg) : Statement (.machi src1 src2) := rfl
theorem maclo (src1 : Reg) (src2 : Reg) : Statement (.maclo src1 src2) := rfl
theorem macwhi (src1 : Reg) (src2 : Reg) : Statement (.macwhi src1 src2) := rfl
theorem macwlo (src1 : Reg) (src2 : Reg) : Statement (.macwlo src1 src2) := rfl
theorem mulhi (src1 : Reg) (src2 : Reg) : Statement (.mulhi src1 src2) := rfl
theorem mullo (src1 : Reg) (src2 : Reg) : Statement (.mullo src1 src2) := rfl
theorem mulwhi (src1 : Reg) (src2 : Reg) : Statement (.mulwhi src1 src2) := rfl
theorem mulwlo (src1 : Reg) (src2 : Reg) : Statement (.mulwlo src1 src2) := rfl
theorem mvfachi (dest : Reg) : Statement (.mvfachi dest) := rfl
theorem mvfaclo (dest : Reg) : Statement (.mvfaclo dest) := rfl
theorem mvfacmi (dest : Reg) : Statement (.mvfacmi dest) := rfl
theorem mvtachi (src : Reg) : Statement (.mvtachi src) := rfl
theorem mvtaclo (src : Reg) : Statement (.mvtaclo src) := rfl
theorem rac : Statement (.rac) := rfl
theorem rach : Statement (.rach) := rfl
theorem fadd (dest : Reg) (src1 : Reg) (src2 : Reg) : Statement (.fadd dest src1 src2) := rfl
theorem fsub (dest : Reg) (src1 : Reg) (src2 : Reg) : Statement (.fsub dest src1 src2) := rfl
theorem fmul (dest : Reg) (src1 : Reg) (src2 : Reg) : Statement (.fmul dest src1 src2) := rfl
theorem fdiv (dest : Reg) (src1 : Reg) (src2 : Reg) : Statement (.fdiv dest src1 src2) := rfl
theorem fmadd (dest : Reg) (src1 : Reg) (src2 : Reg) : Statement (.fmadd dest src1 src2) := rfl
theorem fmsub (dest : Reg) (src1 : Reg) (src2 : Reg) : Statement (.fmsub dest src1 src2) := rfl
theorem itof (dest : Reg) (src : Reg) : Statement (.itof dest src) := rfl
theorem utof (dest : Reg) (src : Reg) : Statement (.utof dest src) := rfl
theorem ftoi (dest : Reg) (src : Reg) : Statement (.ftoi dest src) := rfl
theorem ftos (dest : Reg) (src : Reg) : Statement (.ftos dest src) := rfl
theorem fcmp (dest : Reg) (src1 : Reg) (src2 : Reg) : Statement (.fcmp dest src1 src2) := rfl
theorem fcmpe (dest : Reg) (src1 : Reg) (src2 : Reg) : Statement (.fcmpe dest src1 src2) := rfl
theorem bset (bitpos : Fin 8) (disp16 : BitVec 16) (src : Reg) : Statement (.bset bitpos disp16 src) := rfl
theorem bclr (bitpos : Fin 8) (disp16 : BitVec 16) (src : Reg) : Statement (.bclr bitpos disp16 src) := rfl
theorem btst (bitpos : Fin 8) (src : Reg) : Statement (.btst bitpos src) := rfl
theorem setpsw (imm8 : BitVec 8) : Statement (.setpsw imm8) := rfl
theorem clrpsw (imm8 : BitVec 8) : Statement (.clrpsw imm8) := rfl

end Sys2Proof.Laws.EncodedLength
end

