-- ==== Sys2Proof/Tests/Slice0.lean ====
section
/-! SUPPORT. The package's own tests: the well-formedness smoke, a decoded word for every constructor, one step of each
instruction, and for every statement with hypotheses a state that meets them. Expected results are from
spec/95_test_vectors.md or worked by hand from the rule cited. -/

namespace Sys2Proof.Tests

open Sys2Proof.Machine

set_option maxRecDepth 4000

-- ## Well-formedness: an ill-formed term for each check, refused

theorem test_illformed_mvfc :
    (Instr.mvfc 1 4).wellFormed = false ∧ (Instr.mvfc 1 5).wellFormed = false ∧
    (Instr.mvfc 1 8).wellFormed = false ∧ (Instr.mvfc 1 15).wellFormed = false := by decide
theorem test_illformed_mvtc :
    (Instr.mvtc 1 4).wellFormed = false ∧ (Instr.mvtc 1 5).wellFormed = false ∧
    (Instr.mvtc 1 8).wellFormed = false ∧ (Instr.mvtc 1 15).wellFormed = false := by decide
theorem test_illformed_ldPostInc : (Instr.ldPostInc 3 3).wellFormed = false := by decide
theorem test_illformed_stPreInc : (Instr.stPreInc 3 3).wellFormed = false := by decide
theorem test_illformed_stPreDec : (Instr.stPreDec 15 15).wellFormed = false := by decide
theorem test_wellformed :
    (Instr.mvfc 1 7).wellFormed = true ∧ (Instr.mvtc 1 0).wellFormed = true ∧
    (Instr.ldPostInc 3 4).wellFormed = true ∧ (Instr.sthPostInc 3 3).wellFormed = true := by decide

-- ## Decoding: the word of every constructor, written out from the encoding its rule prints

theorem test_decode_loads :
    decodeTableWord 16 0x21CE = some (.ld 1 14) ∧ decodeTableWord 16 0x21EE = some (.ldPostInc 1 14) ∧
    decodeTableWord 32 0xA1CE8A05 = some (.ldDisp 1 0x8A05#16 14) ∧ decodeTableWord 16 0x218E = some (.ldb 1 14) ∧
    decodeTableWord 32 0xA18E8A05 = some (.ldbDisp 1 0x8A05#16 14) ∧ decodeTableWord 16 0x219E = some (.ldub 1 14) ∧
    decodeTableWord 32 0xA19E8A05 = some (.ldubDisp 1 0x8A05#16 14) ∧ decodeTableWord 16 0x21AE = some (.ldh 1 14) ∧
    decodeTableWord 32 0xA1AE8A05 = some (.ldhDisp 1 0x8A05#16 14) ∧ decodeTableWord 16 0x21BE = some (.lduh 1 14) ∧
    decodeTableWord 32 0xA1BE8A05 = some (.lduhDisp 1 0x8A05#16 14) ∧
    decodeTableWord 16 0x21DE = some (.lock 1 14) := by decide

theorem test_decode_stores :
    decodeTableWord 16 0x214E = some (.st 1 14) ∧ decodeTableWord 16 0x216E = some (.stPreInc 1 14) ∧
    decodeTableWord 16 0x217E = some (.stPreDec 1 14) ∧
    decodeTableWord 32 0xA14E8A05 = some (.stDisp 1 0x8A05#16 14) ∧ decodeTableWord 16 0x210E = some (.stb 1 14) ∧
    decodeTableWord 32 0xA10E8A05 = some (.stbDisp 1 0x8A05#16 14) ∧ decodeTableWord 16 0x212E = some (.sth 1 14) ∧
    decodeTableWord 16 0x213E = some (.sthPostInc 1 14) ∧
    decodeTableWord 32 0xA12E8A05 = some (.sthDisp 1 0x8A05#16 14) ∧
    decodeTableWord 16 0x215E = some (.unlock 1 14) := by decide

theorem test_decode_transfer :
    decodeTableWord 32 0xE18123FC = some (.ld24 1 0x8123FC#24) ∧ decodeTableWord 16 0x619C = some (.ldi8 1 0x9C#8) ∧
    decodeTableWord 32 0x91F08A05 = some (.ldi16 1 0x8A05#16) ∧
    decodeTableWord 32 0xD1C08A05 = some (.seth 1 0x8A05#16) ∧ decodeTableWord 16 0x118E = some (.mv 1 14) ∧
    decodeTableWord 16 0x1196 = some (.mvfc 1 6) ∧ decodeTableWord 16 0x16A1 = some (.mvtc 1 6) := by decide

theorem test_decode_arith :
    decodeTableWord 16 0x014E = some (.cmp 1 14) ∧ decodeTableWord 32 0x80418A05 = some (.cmpi 1 0x8A05#16) ∧
    decodeTableWord 16 0x015E = some (.cmpu 1 14) ∧ decodeTableWord 32 0x80518A05 = some (.cmpui 1 0x8A05#16) ∧
    decodeTableWord 16 0x01AE = some (.add 1 14) ∧ decodeTableWord 32 0x81AE8A05 = some (.add3 1 14 0x8A05#16) ∧
    decodeTableWord 16 0x419C = some (.addi 1 0x9C#8) ∧ decodeTableWord 16 0x018E = some (.addv 1 14) ∧
    decodeTableWord 32 0x818E8A05 = some (.addv3 1 14 0x8A05#16) ∧ decodeTableWord 16 0x019E = some (.addx 1 14) ∧
    decodeTableWord 16 0x013E = some (.neg 1 14) ∧ decodeTableWord 16 0x012E = some (.sub 1 14) ∧
    decodeTableWord 16 0x010E = some (.subv 1 14) ∧ decodeTableWord 16 0x011E = some (.subx 1 14) ∧
    decodeTableWord 16 0x01CE = some (.and 1 14) ∧ decodeTableWord 32 0x81CE8A05 = some (.and3 1 14 0x8A05#16) ∧
    decodeTableWord 16 0x01BE = some (.not 1 14) ∧ decodeTableWord 16 0x01EE = some (.or 1 14) ∧
    decodeTableWord 32 0x81EE8A05 = some (.or3 1 14 0x8A05#16) ∧ decodeTableWord 16 0x01DE = some (.xor 1 14) ∧
    decodeTableWord 32 0x81DE8A05 = some (.xor3 1 14 0x8A05#16) := by decide

theorem test_decode_divide_multiply :
    decodeTableWord 16 0x116E = some (.mul 1 14) ∧ decodeTableWord 32 0x910E0000 = some (.div 1 14) ∧
    decodeTableWord 32 0x911E0000 = some (.divu 1 14) ∧ decodeTableWord 32 0x912E0000 = some (.rem 1 14) ∧
    decodeTableWord 32 0x913E0000 = some (.remu 1 14) := by decide

theorem test_decode_shift :
    decodeTableWord 16 0x114E = some (.sll 1 14) ∧ decodeTableWord 32 0x91CE8A05 = some (.sll3 1 14 0x8A05#16) ∧
    decodeTableWord 16 0x5153 = some (.slli 1 0x13#5) ∧ decodeTableWord 16 0x112E = some (.sra 1 14) ∧
    decodeTableWord 32 0x91AE8A05 = some (.sra3 1 14 0x8A05#16) ∧ decodeTableWord 16 0x5133 = some (.srai 1 0x13#5) ∧
    decodeTableWord 16 0x110E = some (.srl 1 14) ∧ decodeTableWord 32 0x918E8A05 = some (.srl3 1 14 0x8A05#16) ∧
    decodeTableWord 16 0x5113 = some (.srli 1 0x13#5) := by decide

theorem test_decode_branch :
    decodeTableWord 16 0x7C9C = some (.bc8 0x9C#8) ∧ decodeTableWord 32 0xFC8123FC = some (.bc24 0x8123FC#24) ∧
    decodeTableWord 16 0x7D9C = some (.bnc8 0x9C#8) ∧ decodeTableWord 32 0xFD8123FC = some (.bnc24 0x8123FC#24) ∧
    decodeTableWord 32 0xB10E8A05 = some (.beq 1 14 0x8A05#16) ∧
    decodeTableWord 32 0xB11E8A05 = some (.bne 1 14 0x8A05#16) ∧
    decodeTableWord 32 0xB0818A05 = some (.beqz 1 0x8A05#16) ∧
    decodeTableWord 32 0xB0918A05 = some (.bnez 1 0x8A05#16) ∧
    decodeTableWord 32 0xB0B18A05 = some (.bgez 1 0x8A05#16) ∧
    decodeTableWord 32 0xB0D18A05 = some (.bgtz 1 0x8A05#16) ∧
    decodeTableWord 32 0xB0C18A05 = some (.blez 1 0x8A05#16) ∧
    decodeTableWord 32 0xB0A18A05 = some (.bltz 1 0x8A05#16) ∧ decodeTableWord 16 0x7F9C = some (.bra8 0x9C#8) ∧
    decodeTableWord 32 0xFF8123FC = some (.bra24 0x8123FC#24) ∧ decodeTableWord 16 0x7E9C = some (.bl8 0x9C#8) ∧
    decodeTableWord 32 0xFE8123FC = some (.bl24 0x8123FC#24) ∧ decodeTableWord 16 0x1EC1 = some (.jl 1) ∧
    decodeTableWord 16 0x1FC1 = some (.jmp 1) ∧ decodeTableWord 16 0x7000 = some .nop := by decide

theorem test_decode_eit :
    decodeTableWord 16 0x10FA = some (.trap 10) ∧ decodeTableWord 16 0x10D6 = some .rte := by decide

theorem test_decode_dsp :
    decodeTableWord 16 0x314E = some (.machi 1 14) ∧ decodeTableWord 16 0x315E = some (.maclo 1 14) ∧
    decodeTableWord 16 0x316E = some (.macwhi 1 14) ∧ decodeTableWord 16 0x317E = some (.macwlo 1 14) ∧
    decodeTableWord 16 0x310E = some (.mulhi 1 14) ∧ decodeTableWord 16 0x311E = some (.mullo 1 14) ∧
    decodeTableWord 16 0x312E = some (.mulwhi 1 14) ∧ decodeTableWord 16 0x313E = some (.mulwlo 1 14) ∧
    decodeTableWord 16 0x51F0 = some (.mvfachi 1) ∧ decodeTableWord 16 0x51F1 = some (.mvfaclo 1) ∧
    decodeTableWord 16 0x51F2 = some (.mvfacmi 1) ∧ decodeTableWord 16 0x5170 = some (.mvtachi 1) ∧
    decodeTableWord 16 0x5171 = some (.mvtaclo 1) ∧ decodeTableWord 16 0x5090 = some .rac ∧
    decodeTableWord 16 0x5080 = some .rach := by decide

theorem test_decode_float :
    decodeTableWord 32 0xDE070100 = some (.fadd 1 14 7) ∧ decodeTableWord 32 0xDE070140 = some (.fsub 1 14 7) ∧
    decodeTableWord 32 0xDE071100 = some (.fmul 1 14 7) ∧ decodeTableWord 32 0xDE072100 = some (.fdiv 1 14 7) ∧
    decodeTableWord 32 0xDE073100 = some (.fmadd 1 14 7) ∧ decodeTableWord 32 0xDE073140 = some (.fmsub 1 14 7) ∧
    decodeTableWord 32 0xDE004100 = some (.itof 1 14) ∧ decodeTableWord 32 0xDE004140 = some (.utof 1 14) ∧
    decodeTableWord 32 0xDE004180 = some (.ftoi 1 14) ∧ decodeTableWord 32 0xDE0041C0 = some (.ftos 1 14) ∧
    decodeTableWord 32 0xDE0701C0 = some (.fcmp 1 14 7) ∧
    decodeTableWord 32 0xDE0701D0 = some (.fcmpe 1 14 7) := by decide

theorem test_decode_bitops :
    decodeTableWord 32 0xA5618A05 = some (.bset 5 0x8A05#16 1) ∧
    decodeTableWord 32 0xA5718A05 = some (.bclr 5 0x8A05#16 1) ∧ decodeTableWord 16 0x05F1 = some (.btst 5 1) ∧
    decodeTableWord 16 0x719C = some (.setpsw 0x9C#8) ∧ decodeTableWord 16 0x729C = some (.clrpsw 0x9C#8) := by decide

theorem test_decode_lower_slot :
    decode .lower [0x70#8, 0x00#8] = .ok .nop ∧ decode .lower [0xF0#8, 0x00#8] = .ok .nop ∧
    decode .lower [0x01#8, 0xA2#8] = .ok (.add 1 2) ∧
    decode .lower [0xF0#8, 0x01#8] = .error .parallelNotNop ∧
    decode .lower [0x91#8, 0x02#8, 0x00#8, 0x00#8] = .error .parallelNotNop := by decide

/-- Reserved encodings beside defined ones (spec/95 section 2.9): a constant that differs is no instruction. -/
theorem test_decode_reserved :
    decodeTableWord 16 0x0162 = none ∧ decodeTableWord 16 0x08F2 = none ∧ decodeTableWord 16 0x7001 = none ∧
    decodeTableWord 16 0x10D7 = none ∧ decodeTableWord 16 0x5190 = none ∧ decodeTableWord 32 0x91020001 = none ∧
    decodeTableWord 32 0x81420000 = none ∧ decodeTableWord 32 0xD1024080 = none ∧
    decodeTableWord 32 0xD1020001 = none ∧ decodeTableWord 32 0xC0000000 = none ∧
    decodeTableWord 32 0xA8620000 = none ∧ decodeTableWord 32 0xB1830000 = none := by decide

-- ## One step of each instruction

/-- The state the vectors of spec/95 start from: reset, with the program counter at 0x1000. -/
def start : State := { State.reset with pc := 0x1000 }

/-- The state with registers set. -/
def setRegs (rs : List (Reg × Word)) (s : State) : State := rs.foldl (fun s p => s.setReg p.1 p.2) s

/-- One step with the given instruction at the program counter: what `f` sees of the state reached. -/
def after {α : Type} (nbits w : Nat) (s : State) (f : State → α) : Option α :=
  match step (s.withFetchWord nbits w) with
  | .next t => some (f t)
  | _ => none

-- ## Load and store (spec/95 section 2.1)

theorem test_ld :
    after 16 0x21C2 ((setRegs [(2, 0x2000)] start).writeWord 0x2000 0x80FF7F01)
      (fun t => (t.reg 1, t.pc)) = some (0x80FF7F01, 0x1002) := by decide
theorem test_ld_misaligned :
    after 16 0x21C2 ((setRegs [(1, 0x11111111), (2, 0x2002)]
      ({ start with psw := 0xC1 } : State)).writeWord 0x2000 0x80FF7F01)
      (fun t => (t.reg 1, t.pc, t.bpc, t.psw)) = some (0x11111111, 0x30, 0x1000, 0xC180) := by decide
theorem test_ldPostInc :
    after 16 0x21E2 ((setRegs [(2, 0x2000)] start).writeWord 0x2000 0x80FF7F01)
      (fun t => (t.reg 1, t.reg 2)) = some (0x80FF7F01, 0x2004) := by decide
theorem test_ldPostInc_misaligned :
    after 16 0x21E2 (setRegs [(2, 0x2001)] start)
      (fun t => (t.reg 2, t.pc, t.bpc)) = some (0x2001, 0x30, 0x1000) := by decide
theorem test_ldDisp_negative :
    after 32 0xA1C2FFFC ((setRegs [(2, 0x2004)] start).writeWord 0x2000 0x80FF7F01)
      (fun t => (t.reg 1, t.pc)) = some (0x80FF7F01, 0x1004) := by decide
theorem test_ldb_sign :
    after 16 0x2182 ((setRegs [(2, 0x2000)] start).writeWord 0x2000 0x80FF7F01)
      (fun t => t.reg 1) = some 0xFFFFFF80 := by decide
theorem test_ldbDisp :
    after 32 0xA1820001 ((setRegs [(2, 0x2000)] start).writeWord 0x2000 0x80FF7F01)
      (fun t => t.reg 1) = some 0xFFFFFFFF := by decide
theorem test_ldub :
    after 16 0x2192 ((setRegs [(2, 0x2001)] start).writeWord 0x2000 0x80FF7F01)
      (fun t => t.reg 1) = some 0xFF := by decide
theorem test_ldubDisp :
    after 32 0xA1920000 ((setRegs [(2, 0x2000)] start).writeWord 0x2000 0x80FF7F01)
      (fun t => t.reg 1) = some 0x80 := by decide
theorem test_ldh_sign :
    after 16 0x21A2 ((setRegs [(2, 0x2000)] start).writeWord 0x2000 0x80FF7F01)
      (fun t => t.reg 1) = some 0xFFFF80FF := by decide
theorem test_ldhDisp :
    after 32 0xA1A20002 ((setRegs [(2, 0x2000)] start).writeWord 0x2000 0x80FF7F01)
      (fun t => t.reg 1) = some 0x7F01 := by decide
theorem test_lduh :
    after 16 0x21B2 ((setRegs [(2, 0x2000)] start).writeWord 0x2000 0x80FF7F01)
      (fun t => t.reg 1) = some 0x80FF := by decide
theorem test_lduhDisp :
    after 32 0xA1B2FFFE ((setRegs [(2, 0x2002)] start).writeWord 0x2000 0x80FF7F01)
      (fun t => t.reg 1) = some 0x80FF := by decide
theorem test_ldh_misaligned :
    after 16 0x21A2 (setRegs [(2, 0x2001)] start)
      (fun t => (t.pc, t.bpc)) = some (0x30, 0x1000) := by decide
theorem test_lock :
    after 16 0x21D2 ((setRegs [(2, 0x2000)] start).writeWord 0x2000 0x80FF7F01)
      (fun t => (t.reg 1, t.lockBit)) = some (0x80FF7F01, true) := by decide
theorem test_st :
    after 16 0x2142 (setRegs [(1, 0x11223344), (2, 0x2000)] start)
      (fun t => (t.readWord 0x2000, t.readByte 0x2000)) = some (0x11223344, 0x11) := by decide
theorem test_stPreInc :
    after 16 0x2162 (setRegs [(1, 0x11223344), (2, 0x2000)] start)
      (fun t => (t.readWord 0x2004, t.reg 2)) = some (0x11223344, 0x2004) := by decide
theorem test_stPreDec_wraps :
    after 16 0x2172 (setRegs [(1, 0x11223344), (2, 0)] start)
      (fun t => (t.readWord 0xFFFFFFFC, t.reg 2)) = some (0x11223344, 0xFFFFFFFC) := by decide
theorem test_stDisp :
    after 32 0xA1427FFC (setRegs [(1, 0x11223344), (2, 0x2000)] start)
      (fun t => (t.readWord 0x9FFC, t.pc)) = some (0x11223344, 0x1004) := by decide
theorem test_stb :
    after 16 0x2102 ((setRegs [(1, 0x11223344), (2, 0x2003)] start).writeWord 0x2000 0x80FF7F01)
      (fun t => t.readWord 0x2000) = some 0x80FF7F44 := by decide
theorem test_stbDisp :
    after 32 0xA1020001 ((setRegs [(1, 0x11223344), (2, 0x2000)] start).writeWord 0x2000 0x80FF7F01)
      (fun t => t.readWord 0x2000) = some 0x80447F01 := by decide
theorem test_sth :
    after 16 0x2122 ((setRegs [(1, 0x11223344), (2, 0x2002)] start).writeWord 0x2000 0x80FF7F01)
      (fun t => t.readWord 0x2000) = some 0x80FF3344 := by decide
theorem test_sthPostInc_same :
    after 16 0x2232 (setRegs [(2, 0x2000)] start)
      (fun t => (t.readHalf 0x2000, t.reg 2)) = some (0x2000, 0x2002) := by decide
theorem test_sthDisp :
    after 32 0xA122FFFE ((setRegs [(1, 0x11223344), (2, 0x2002)] start).writeWord 0x2000 0x80FF7F01)
      (fun t => t.readWord 0x2000) = some 0x33447F01 := by decide
theorem test_unlock_held :
    after 16 0x2152 ((setRegs [(1, 0x55), (2, 0x2000)]
      ({ start with lockBit := true } : State)).writeWord 0x2000 0x80FF7F01)
      (fun t => (t.readWord 0x2000, t.lockBit)) = some (0x55, false) := by decide
theorem test_unlock_free :
    after 16 0x2152 ((setRegs [(1, 0x55), (2, 0x2000)] start).writeWord 0x2000 0x80FF7F01)
      (fun t => (t.readWord 0x2000, t.lockBit)) = some (0x80FF7F01, false) := by decide
-- ## Transfer (spec/95 section 2.2)

theorem test_ld24 :
    after 32 0xE2FFFFFF start
      (fun t => t.reg 2) = some 0x00FFFFFF := by decide
theorem test_ldi8_sign :
    after 16 0x6280 start
      (fun t => t.reg 2) = some 0xFFFFFF80 := by decide
theorem test_ldi16_sign :
    after 32 0x92F08000 start
      (fun t => t.reg 2) = some 0xFFFF8000 := by decide
theorem test_seth :
    after 32 0xD2C08001 (setRegs [(2, 0xFFFFFFFF)] start)
      (fun t => t.reg 2) = some 0x80010000 := by decide
theorem test_mv_r15_interrupt :
    after 16 0x128F ({ start with spi := 0x1234, spu := 0x5678 } : State)
      (fun t => t.reg 2) = some 0x1234 := by decide
theorem test_mv_r15_user :
    after 16 0x128F ({ start with psw := 0x80, spi := 0x1234, spu := 0x5678 } : State)
      (fun t => t.reg 2) = some 0x5678 := by decide
theorem test_mvfc_cbr :
    after 16 0x1291 ({ start with psw := 0x81 } : State)
      (fun t => t.reg 2) = some 1 := by decide
theorem test_mvfc_fpsr_summary :
    after 16 0x1297 ({ start with fpsr := 0x20000100 } : State)
      (fun t => t.reg 2) = some 0xA0000100 := by decide
theorem test_mvtc_psw :
    after 16 0x10A2 (setRegs [(2, 0xFFFFFFFF)] start)
      (fun t => (t.psw, t.pc)) = some (0xC1C1, 0x1002) := by decide
theorem test_mvtc_fpsr_causes :
    after 16 0x17A2 (setRegs [(2, 0xFFFFFFFF)] ({ start with fpsr := 0xA8 } : State))
      (fun t => t.fpsr) = some 0x7C007DAB := by decide
-- ## Operations (spec/95 section 2.3)

theorem test_cmp_signed :
    after 16 0x0142 (setRegs [(1, 0x80000000), (2, 0x7FFFFFFF)] start)
      (fun t => t.c) = some true := by decide
theorem test_cmpi :
    after 32 0x8042FFFF (setRegs [(2, 0xFFFFFFFE)] start)
      (fun t => t.c) = some true := by decide
theorem test_cmpu :
    after 16 0x0152 (setRegs [(1, 0x7FFFFFFF), (2, 0x80000000)] start)
      (fun t => t.c) = some true := by decide
theorem test_cmpui_sign_extends :
    after 32 0x8052FFFF (setRegs [(2, 0x7FFFFFFF)] start)
      (fun t => t.c) = some true := by decide
theorem test_add_keeps_c :
    after 16 0x01A2 (setRegs [(1, 0xFFFFFFFF), (2, 1)] ({ start with psw := 1 } : State))
      (fun t => (t.reg 1, t.c)) = some (0, true) := by decide
theorem test_add3 :
    after 32 0x81A28000 (setRegs [(2, 0x8000)] start)
      (fun t => t.reg 1) = some 0 := by decide
theorem test_addi :
    after 16 0x41FF start
      (fun t => t.reg 1) = some 0xFFFFFFFF := by decide
theorem test_addv :
    after 16 0x0182 (setRegs [(1, 0x7FFFFFFF), (2, 1)] start)
      (fun t => (t.reg 1, t.c)) = some (0x80000000, true) := by decide
theorem test_addv_clears :
    after 16 0x0182 (setRegs [(1, 0xFFFFFFFF), (2, 1)] ({ start with psw := 1 } : State))
      (fun t => (t.reg 1, t.c)) = some (0, false) := by decide
theorem test_addv3 :
    after 32 0x8182FFFF (setRegs [(2, 0x80000000)] start)
      (fun t => (t.reg 1, t.c)) = some (0x7FFFFFFF, true) := by decide
theorem test_addx_all_ones :
    after 16 0x0192 (setRegs [(1, 0xFFFFFFFF), (2, 0xFFFFFFFF)] ({ start with psw := 1 } : State))
      (fun t => (t.reg 1, t.c)) = some (0xFFFFFFFF, true) := by decide
theorem test_addx_signed_overflow_only :
    after 16 0x0192 (setRegs [(1, 0x7FFFFFFF), (2, 1)] start)
      (fun t => (t.reg 1, t.c)) = some (0x80000000, false) := by decide
theorem test_neg_least :
    after 16 0x0132 (setRegs [(2, 0x80000000)] ({ start with psw := 1 } : State))
      (fun t => (t.reg 1, t.c)) = some (0x80000000, true) := by decide
theorem test_sub :
    after 16 0x0122 (setRegs [(2, 1)] start)
      (fun t => (t.reg 1, t.c)) = some (0xFFFFFFFF, false) := by decide
theorem test_subv :
    after 16 0x0102 (setRegs [(1, 0x80000000), (2, 1)] start)
      (fun t => (t.reg 1, t.c)) = some (0x7FFFFFFF, true) := by decide
theorem test_subx_borrow :
    after 16 0x0112 ({ start with psw := 1 } : State)
      (fun t => (t.reg 1, t.c)) = some (0xFFFFFFFF, true) := by decide
theorem test_subx :
    after 16 0x0112 (setRegs [(1, 5), (2, 3)] ({ start with psw := 1 } : State))
      (fun t => (t.reg 1, t.c)) = some (1, false) := by decide
theorem test_and :
    after 16 0x01C2 (setRegs [(1, 0xFF00FF00), (2, 0x0FF00FF0)] start)
      (fun t => t.reg 1) = some 0x0F000F00 := by decide
theorem test_and3 :
    after 32 0x81C2FFFF (setRegs [(2, 0x12345678)] start)
      (fun t => t.reg 1) = some 0x5678 := by decide
theorem test_or :
    after 16 0x01E2 (setRegs [(1, 0xFF00FF00), (2, 0x0FF00FF0)] start)
      (fun t => t.reg 1) = some 0xFFF0FFF0 := by decide
theorem test_or3 :
    after 32 0x81E28000 (setRegs [(2, 0x12340000)] start)
      (fun t => t.reg 1) = some 0x12348000 := by decide
theorem test_xor :
    after 16 0x01D2 (setRegs [(1, 0xFF00FF00), (2, 0x0FF00FF0)] start)
      (fun t => t.reg 1) = some 0xF0F0F0F0 := by decide
theorem test_xor3 :
    after 32 0x81D2FFFF (setRegs [(2, 0x12345678)] start)
      (fun t => t.reg 1) = some 0x1234A987 := by decide
theorem test_not :
    after 16 0x01B2 (setRegs [(2, 0x0F0F0F0F)] start)
      (fun t => t.reg 1) = some 0xF0F0F0F0 := by decide
theorem test_mul :
    after 16 0x1162 (setRegs [(1, 0x80000000), (2, 0xFFFFFFFF)] start)
      (fun t => t.reg 1) = some 0x80000000 := by decide
theorem test_div_toward_zero :
    after 32 0x91020000 (setRegs [(1, 0xFFFFFFF9), (2, 2)] start)
      (fun t => t.reg 1) = some 0xFFFFFFFD := by decide
theorem test_div_by_zero :
    after 32 0x91020000 (setRegs [(1, 5), (2, 0)] start)
      (fun t => (t.reg 1, t.pc)) = some (5, 0x1004) := by decide
theorem test_divu :
    after 32 0x91120000 (setRegs [(1, 0xFFFFFFF9), (2, 2)] start)
      (fun t => t.reg 1) = some 0x7FFFFFFC := by decide
theorem test_rem_sign_of_dividend :
    after 32 0x91220000 (setRegs [(1, 0xFFFFFFF9), (2, 0xFFFFFFFE)] start)
      (fun t => t.reg 1) = some 0xFFFFFFFF := by decide
theorem test_remu :
    after 32 0x91320000 (setRegs [(1, 0x80000000), (2, 0xFFFFFFFF)] start)
      (fun t => t.reg 1) = some 0x80000000 := by decide
theorem test_sll_modulo_32 :
    after 16 0x1142 (setRegs [(1, 1), (2, 0x24)] start)
      (fun t => t.reg 1) = some 0x10 := by decide
theorem test_sll3 :
    after 32 0x91C2FFE4 (setRegs [(2, 0xF000000F)] start)
      (fun t => t.reg 1) = some 0xF0 := by decide
theorem test_slli :
    after 16 0x515F (setRegs [(1, 3)] start)
      (fun t => t.reg 1) = some 0x80000000 := by decide
theorem test_sra :
    after 16 0x1122 (setRegs [(1, 0x80000000), (2, 0x1F)] start)
      (fun t => t.reg 1) = some 0xFFFFFFFF := by decide
theorem test_sra3 :
    after 32 0x91A20004 (setRegs [(2, 0x80000000)] start)
      (fun t => t.reg 1) = some 0xF8000000 := by decide
theorem test_srai :
    after 16 0x5121 (setRegs [(1, 0x7FFFFFFF)] start)
      (fun t => t.reg 1) = some 0x3FFFFFFF := by decide
theorem test_srl :
    after 16 0x1102 (setRegs [(1, 0x80000000), (2, 0x1F)] start)
      (fun t => t.reg 1) = some 1 := by decide
theorem test_srl3 :
    after 32 0x91820010 (setRegs [(2, 0x12345678)] start)
      (fun t => t.reg 1) = some 0x1234 := by decide
theorem test_srli :
    after 16 0x5101 (setRegs [(1, 0xFFFFFFFF)] start)
      (fun t => t.reg 1) = some 0x7FFFFFFF := by decide
-- ## Branches (spec/95 S1, section 2.4)

theorem test_bc8_lower_slot :
    after 16 0x7C04 ({ start with psw := 1, pc := 0x1002 } : State)
      (fun t => t.pc) = some 0x1010 := by decide
theorem test_bc24 :
    after 32 0xFCFFFFFF ({ start with psw := 1 } : State)
      (fun t => t.pc) = some 0x0FFC := by decide
theorem test_bnc8_not_taken :
    after 16 0x7D01 ({ start with psw := 1 } : State)
      (fun t => t.pc) = some 0x1002 := by decide
theorem test_bnc24 :
    after 32 0xFD800000 start
      (fun t => t.pc) = some 0xFE001000 := by decide
theorem test_bra8_lower_slot :
    after 16 0x7F04 ({ start with pc := 0x1002 } : State)
      (fun t => t.pc) = some 0x1010 := by decide
theorem test_bra24 :
    after 32 0xFF000400 start
      (fun t => t.pc) = some 0x2000 := by decide
theorem test_bl8_lower_slot :
    after 16 0x7E04 ({ start with pc := 0x1002 } : State)
      (fun t => (t.pc, t.reg 14)) = some (0x1010, 0x1004) := by decide
theorem test_bl24 :
    after 32 0xFEFFFFFC start
      (fun t => (t.pc, t.reg 14)) = some (0x0FF0, 0x1004) := by decide
theorem test_beq :
    after 32 0xB1020004 (setRegs [(1, 5), (2, 5)] start)
      (fun t => t.pc) = some 0x1010 := by decide
theorem test_bne :
    after 32 0xB112FFFF (setRegs [(1, 5), (2, 6)] start)
      (fun t => t.pc) = some 0x0FFC := by decide
theorem test_beqz :
    after 32 0xB0830010 start
      (fun t => t.pc) = some 0x1040 := by decide
theorem test_bnez :
    after 32 0xB0930010 start
      (fun t => t.pc) = some 0x1004 := by decide
theorem test_bgez_zero :
    after 32 0xB0B30010 start
      (fun t => t.pc) = some 0x1040 := by decide
theorem test_bgtz_zero :
    after 32 0xB0D30010 start
      (fun t => t.pc) = some 0x1004 := by decide
theorem test_blez_zero :
    after 32 0xB0C30010 start
      (fun t => t.pc) = some 0x1040 := by decide
theorem test_bltz_least :
    after 32 0xB0A30010 (setRegs [(3, 0x80000000)] start)
      (fun t => t.pc) = some 0x1040 := by decide
theorem test_jl_r14 :
    after 16 0x1ECE (setRegs [(14, 0x2000)] ({ start with pc := 0x1002 } : State))
      (fun t => (t.pc, t.reg 14)) = some (0x2000, 0x1004) := by decide
theorem test_jmp :
    after 16 0x1FC3 (setRegs [(3, 0x12345677)] start)
      (fun t => t.pc) = some 0x12345674 := by decide
theorem test_nop :
    after 16 0x7000 start
      (fun t => t.pc) = some 0x1002 := by decide
theorem test_parallel_nop :
    after 16 0xF000 ({ start with pc := 0x1002 } : State)
      (fun t => t.pc) = some 0x1004 := by decide
-- ## EIT (spec/95 section 2.5)

theorem test_trap :
    after 16 0x10F0 ({ start with psw := 0xC1 } : State)
      (fun t => (t.pc, t.bpc, t.psw)) = some (0x40, 0x1004, 0xC180) := by decide
theorem test_trap_lower_slot :
    after 16 0x10FF ({ start with pc := 0x1002 } : State)
      (fun t => (t.pc, t.bpc)) = some (0x7C, 0x1006) := by decide
/-- The return address; SM, IE, C after RTE, whatever the free bits are. -/
theorem test_rte :
    after 16 0x10D6 ({ start with psw := 0xC100, bpc := 0x1006 } : State) (fun t => t.pc) = some 0x1004 ∧
    ∀ b : BitVec 3, (pswAfterRte 0x8101#32 b).getLsbD 7 = true ∧ (pswAfterRte 0x8101#32 b).getLsbD 6 = false ∧
      (pswAfterRte 0x8101#32 b).getLsbD 0 = true := by decide
/-- A second RTE is refused (U2), also where MVTC has written only one of PSW and BPC. -/
theorem test_rte_twice :
    exec .rte start.returnFromEit = .refused .undefinedReturnState ∧
    exec .rte (start.returnFromEit.setPsw 0) = .refused .undefinedReturnState ∧
    exec .rte (start.returnFromEit.setBpc 0) = .refused .undefinedReturnState ∧
    ∃ t, exec .rte ((start.returnFromEit.setPsw 0).setBpc 0) = .next t := ⟨rfl, rfl, rfl, _, rfl⟩
-- ## DSP (spec/95 section 2.6)

theorem test_mulhi :
    after 16 0x3102 (setRegs [(1, 0x7FFF8000), (2, 0x8000FFFF)] start)
      (fun t => t.acc) = some 0xFFC00080000000 := by decide
theorem test_mullo :
    after 16 0x3112 (setRegs [(1, 0x7FFF8000), (2, 0x8000FFFF)] start)
      (fun t => t.acc) = some 0x80000000 := by decide
theorem test_mulwhi :
    after 16 0x3122 (setRegs [(1, 0x7FFF8000), (2, 0x8000FFFF)] start)
      (fun t => t.acc) = some 0xFFC00040000000 := by decide
theorem test_mulwlo :
    after 16 0x3132 (setRegs [(1, 0x7FFF8000), (2, 0x8000FFFF)] start)
      (fun t => t.acc) = some 0xFFFFFF80008000 := by decide
theorem test_machi :
    after 16 0x3142 (setRegs [(1, 0x7FFF8000), (2, 0x8000FFFF)] ({ start with acc := 1 } : State))
      (fun t => t.acc) = some 0xFFC00080000001 := by decide
theorem test_maclo :
    after 16 0x3152 (setRegs [(1, 0x7FFF8000), (2, 0x8000FFFF)] ({ start with acc := 1 } : State))
      (fun t => t.acc) = some 0x80000001 := by decide
theorem test_macwhi :
    after 16 0x3162 (setRegs [(1, 0x7FFF8000), (2, 0x8000FFFF)] ({ start with acc := 1 } : State))
      (fun t => t.acc) = some 0xFFC00040000001 := by decide
theorem test_macwlo :
    after 16 0x3172 (setRegs [(1, 0x7FFF8000), (2, 0x8000FFFF)] ({ start with acc := 1 } : State))
      (fun t => t.acc) = some 0xFFFFFF80008001 := by decide
theorem test_mvfachi :
    after 16 0x53F0 ({ start with acc := 0x84567811223344 } : State)
      (fun t => t.reg 3) = some 0xFF845678 := by decide
theorem test_mvfaclo :
    after 16 0x53F1 ({ start with acc := 0x84567811223344 } : State)
      (fun t => t.reg 3) = some 0x11223344 := by decide
theorem test_mvfacmi :
    after 16 0x53F2 ({ start with acc := 0x84567811223344 } : State)
      (fun t => t.reg 3) = some 0x56781122 := by decide
theorem test_mvtachi :
    after 16 0x5170 (setRegs [(1, 0x12845678)] ({ start with acc := 0x11223344 } : State))
      (fun t => t.acc) = some 0x84567811223344 := by decide
theorem test_mvtaclo :
    after 16 0x5171 (setRegs [(1, 0xFFFFFFFF)] ({ start with acc := 0x84567811223344 } : State))
      (fun t => t.acc) = some 0x845678FFFFFFFF := by decide
theorem test_rac :
    after 16 0x5090 ({ start with acc := 0x123456789 } : State)
      (fun t => t.acc) = some 0x2468B0000 := by decide
theorem test_rac_saturates :
    after 16 0x5090 ({ start with acc := 0x3FFFFFFFFFFFFF } : State)
      (fun t => t.acc) = some 0x007FFFFFFF0000 := by decide
theorem test_rach :
    after 16 0x5080 ({ start with acc := 0x123456789 } : State)
      (fun t => t.acc) = some 0x200000000 := by decide
theorem test_rach_saturates :
    after 16 0x5080 ({ start with acc := 0x80000000000000 } : State)
      (fun t => t.acc) = some 0xFF800000000000 := by decide
-- ## Bit operations (spec/95 section 2.8)

theorem test_bset :
    after 32 0xA0620002 ((setRegs [(2, 0x2000)] ({ start with lockBit := true } : State)).writeWord 0x2000 0x80FF7F01)
      (fun t => (t.readWord 0x2000, t.lockBit)) = some (0x80FFFF01, false) := by decide
theorem test_bclr :
    after 32 0xA3720001 ((setRegs [(2, 0x2000)] start).writeWord 0x2000 0x80FF7F01)
      (fun t => t.readWord 0x2000) = some 0x80EF7F01 := by decide
theorem test_btst :
    after 16 0x00F2 (setRegs [(2, 0x80)] start)
      (fun t => t.c) = some true := by decide
theorem test_setpsw :
    after 16 0x71FF start
      (fun t => t.psw) = some 0xC1 := by decide
theorem test_clrpsw :
    after 16 0x7240 ({ start with psw := 0xC1 } : State)
      (fun t => t.psw) = some 0x81 := by decide
-- ## Floating point (spec/95 S4 to S10, section 2.7)

theorem test_fadd_tie_to_even :
    after 32 0xD1020000 (setRegs [(0, 0), (1, 0x3F800000), (2, 0x33800000)] ({ start with fpsr := 0x100 } : State))
      (fun t => (t.reg 0, t.fpsrRead)) = some (0x3F800000, 0x40000140) := by decide +kernel
theorem test_fadd_toward_plus :
    after 32 0xD1020000 (setRegs [(0, 0), (1, 0x3F800000), (2, 0x33800000)] ({ start with fpsr := 0x102 } : State))
      (fun t => (t.reg 0, t.fpsrRead)) = some (0x3F800001, 0x40000142) := by decide +kernel
theorem test_fsub_flushed_underflow :
    after 32 0xD1020040 (setRegs [(0, 0), (1, 0x00800000), (2, 0x00800001)] ({ start with fpsr := 0x100 } : State))
      (fun t => (t.reg 0, t.fpsrRead)) = some (0x80000000, 0xA0000120) := by decide +kernel
theorem test_fsub_zero_toward_minus :
    after 32 0xD1020040 (setRegs [(0, 0), (1, 0x3F800000), (2, 0x3F800000)] ({ start with fpsr := 0x103 } : State))
      (fun t => (t.reg 0, t.fpsrRead)) = some (0x80000000, 0x103) := by decide +kernel
theorem test_fmul :
    after 32 0xD1021000 (setRegs [(0, 0), (1, 0x40000000), (2, 0x40400000)] ({ start with fpsr := 0x100 } : State))
      (fun t => (t.reg 0, t.fpsrRead)) = some (0x40C00000, 0x100) := by decide +kernel
theorem test_fmul_signed_zero :
    after 32 0xD1021000 (setRegs [(0, 0), (1, 0xBF800000), (2, 0x00000000)] ({ start with fpsr := 0x100 } : State))
      (fun t => (t.reg 0, t.fpsrRead)) = some (0x80000000, 0x100) := by decide +kernel
theorem test_fdiv :
    after 32 0xD1022000 (setRegs [(0, 0), (1, 0x3F800000), (2, 0x40400000)] ({ start with fpsr := 0x100 } : State))
      (fun t => (t.reg 0, t.fpsrRead)) = some (0x3EAAAAAB, 0x40000140) := by decide +kernel
theorem test_fdiv_by_zero :
    after 32 0xD1022000 (setRegs [(0, 0), (1, 0xBF800000), (2, 0)] ({ start with fpsr := 0x100 } : State))
      (fun t => (t.reg 0, t.fpsrRead)) = some (0xFF800000, 0x90000110) := by decide +kernel
theorem test_fmadd_overflowed_product :
    after 32 0xD1023000 (setRegs [(0, 0xFF7FFFFF), (1, 0x7F7FFFFF), (2, 0x40000000)]
      ({ start with fpsr := 0x101 } : State))
      (fun t => (t.reg 0, t.fpsrRead)) = some (0x7F7FFFFF, 0xC8000149) := by decide +kernel
theorem test_fmadd_both_steps :
    after 32 0xD1023000 (setRegs [(0, 0x7F800001), (1, 0x7F7FFFFF), (2, 0x40000000)]
      ({ start with fpsr := 0x900 } : State))
      (fun t => (t.reg 0, t.fpsrRead, t.pc)) = some (0x7F800001, 0x90C, 0x90) := by decide +kernel
theorem test_fmsub_invalid :
    after 32 0xD1023040 (setRegs [(0, 0x7F800000), (1, 0x7F800000), (2, 0x3F800000)]
      ({ start with fpsr := 0x100 } : State))
      (fun t => (t.reg 0, t.fpsrRead)) = some (0x7FFFFFFF, 0x84000104) := by decide +kernel
theorem test_itof_toward_zero :
    after 32 0xD1004000 (setRegs [(0, 0), (1, 0x7FFFFFFF), (2, 0)] ({ start with fpsr := 0x101 } : State))
      (fun t => (t.reg 0, t.fpsrRead)) = some (0x4EFFFFFF, 0x40000141) := by decide +kernel
theorem test_utof :
    after 32 0xD1004040 (setRegs [(0, 0), (1, 0xFFFFFFFF), (2, 0)] ({ start with fpsr := 0x100 } : State))
      (fun t => (t.reg 0, t.fpsrRead)) = some (0x4F800000, 0x40000140) := by decide +kernel
theorem test_ftoi_inexact_enabled :
    after 32 0xD1004080 (setRegs [(0, 7), (1, 0xBFC00000), (2, 0)] ({ start with fpsr := 0x4100 } : State))
      (fun t => (t.reg 0, t.fpsrRead, t.pc, t.bpc)) = some (7, 0x4140, 0x90, 0x1004) := by decide +kernel
theorem test_ftoi_too_large :
    after 32 0xD1004080 (setRegs [(0, 0), (1, 0x4F000000), (2, 0)] ({ start with fpsr := 0x100 } : State))
      (fun t => (t.reg 0, t.fpsrRead)) = some (0x7FFFFFFF, 0x84000104) := by decide +kernel
theorem test_ftos_truncates_then_tests :
    after 32 0xD10040C0 (setRegs [(0, 0), (1, 0xC70000FF), (2, 0)] ({ start with fpsr := 0x100 } : State))
      (fun t => (t.reg 0, t.fpsrRead)) = some (0xFFFF8000, 0x40000140) := by decide +kernel
theorem test_fcmp_denormal_as_zero :
    after 32 0xD10200C0 (setRegs [(0, 7), (1, 0x00000001), (2, 0)] ({ start with fpsr := 0x100 } : State))
      (fun t => (t.reg 0, t.fpsrRead)) = some (0, 0x100) := by decide +kernel
theorem test_fcmpe_snan_enabled :
    after 32 0xD10200D0 (setRegs [(0, 7), (1, 0x7F800001), (2, 0x3F800000)] ({ start with fpsr := 0x500 } : State))
      (fun t => (t.reg 0, t.fpsrRead, t.pc)) = some (7, 0x504, 0x90) := by decide +kernel

-- ## For every statement with hypotheses, a state and operands that meet them, clause by clause at its boundaries

/-- A 16-bit instruction stands before the second clause of DecodeEncode. -/
theorem test_witness_DecodeEncode : Instr.nop.isLong = false ∧ (Instr.add 15 0).isLong = false := by decide

/-- Upper slot: the smallest and largest first byte of each length; lower slot: an instruction and the parallel NOP. -/
theorem test_witness_EncodeDecode :
    decode .upper [0x00#8, 0x00#8, 0x00#8, 0x00#8] = .ok (.subv 0 0) ∧
    decode .upper [0x7F#8, 0xFF#8, 0xFF#8, 0xFF#8] = .ok (.bra8 0xFF#8) ∧
    decode .upper [0x80#8, 0x40#8, 0x00#8, 0x00#8] = .ok (.cmpi 0 0x0000#16) ∧
    decode .upper [0xFF#8, 0xFF#8, 0xFF#8, 0xFF#8] = .ok (.bra24 0xFFFFFF#24) ∧
    decode .lower [0x7F#8, 0xFF#8, 0x00#8, 0x00#8] = .ok (.bra8 0xFF#8) ∧
    decode .lower [0xF0#8, 0x00#8, 0x00#8, 0x00#8] = .ok .nop := by decide

theorem test_witness_LengthRule :
    decode .upper [0x7F#8, 0xFF#8, 0xFF#8, 0xFF#8] = .ok (.bra8 0xFF#8) ∧ (0x7F#8).msb = false ∧
    decode .upper [0x80#8, 0x40#8, 0x00#8, 0x00#8] = .ok (.cmpi 0 0x0000#16) ∧ (0x80#8).msb = true ∧
    decode .lower [0xF0#8, 0x00#8, 0x00#8, 0x00#8] = .ok .nop := by decide

/-- The state with four bytes at the program counter. -/
def fetching (pc w : Word) : State := { start.writeWord pc w with pc := pc }

/-- The top four bits of an instruction's first byte are never 1100. -/
theorem not_beginning_with_C (i : Instr) (b1 b2 b3 : Byte) : ¬ encodeBytes i <+: [0xC0#8, b1, b2, b3] := by
  have key : ∀ c0 c1 c2 c3 : BitVec 4, c0 ≠ 0xC#4 → (halfOf c0 c1 c2 c3).extractLsb' 8 8 ≠ 0xC0#8 := by
    intro c0 c1 c2 c3 hc h
    apply hc
    have := congrArg (BitVec.extractLsb' 4 4) h
    rw [show BitVec.extractLsb' 4 4 ((halfOf c0 c1 c2 c3).extractLsb' 8 8) = c0 by
      apply BitVec.eq_of_getLsbD_eq
      intro k hk
      unfold halfOf
      show (BitVec.extractLsb' 4 4 (BitVec.extractLsb' 8 8 (c0 ++ c1 ++ c2 ++ c3 : BitVec (4 + 4 + 4 + 4)))).getLsbD
        k = _
      simp only [BitVec.getLsbD_extractLsb', BitVec.getLsbD_append]
      interval_cases k <;> simp] at this
    simpa using this
  intro h
  obtain ⟨rest, h⟩ := h
  have h0 := congrArg List.head? h
  cases i <;> exact absurd (Option.some.inj h0) (key _ _ _ _ (by decide))

theorem test_witness_ReservedEncodingStops_upper :
    (fetching 0x1000 0xC0000000).acceptsInterrupt = false ∧ (fetching 0x1000 0xC0000000).pc.getLsbD 1 = false ∧
    ∀ i : Instr, ¬ encodeBytes i <+: (fetching 0x1000 0xC0000000).fetchBytes :=
  ⟨by decide, by decide, fun i => by
    rw [show (fetching 0x1000 0xC0000000).fetchBytes = [0xC0#8, 0x00#8, 0x00#8, 0x00#8] by decide]
    exact not_beginning_with_C i _ _ _⟩

theorem test_witness_ReservedEncodingStops_lower :
    (fetching 0x1002 0xC0000000).acceptsInterrupt = false ∧ (fetching 0x1002 0xC0000000).pc.getLsbD 1 = true ∧
    (fetching 0x1002 0xC0000000).readHalf 0x1002 ≠ 0xF000#16 ∧
    ∀ i : Instr, i.isLong = false → ¬ encodeBytes i <+: (fetching 0x1002 0xC0000000).fetchBytes :=
  ⟨by decide, by decide, by decide, fun i _ => by
    rw [show (fetching 0x1002 0xC0000000).fetchBytes = [0xC0#8, 0x00#8, 0x00#8, 0x00#8] by decide]
    exact not_beginning_with_C i _ _ _⟩

/-- The parallel NOP, and the halfwords around it. -/
theorem test_witness_ParallelNop :
    (fetching 0x1002 0xF0000000).pc.getLsbD 0 = false ∧ (fetching 0x1002 0xF0000000).pc.getLsbD 1 = true ∧
    (fetching 0x1002 0xF0000000).readHalf 0x1002 = 0xF000#16 ∧
    ((fetching 0x1002 0xF0010000).readHalf 0x1002).msb = true ∧
    (fetching 0x1002 0xF0010000).readHalf 0x1002 ≠ 0xF000#16 ∧
    ((fetching 0x1002 0x80000000).readHalf 0x1002).msb = true := by decide

/-- No request; a request that IE = 0 masks; a request in the lower slot. -/
theorem test_witness_StepRunsDecoded :
    (start.intRequests.head? ≠ some true ∧ decode .upper start.fetchBytes = .ok (.subv 0 0)) ∧
    (let s : State := { start with intRequests := [true] }
     s.intRequests.head? = some true ∧ s.ie = false ∧ decode .upper s.fetchBytes = .ok (.subv 0 0)) ∧
    (let s : State := { fetching 0x1002 0x70000000 with intRequests := [true], psw := 0x40 }
     s.intRequests.head? = some true ∧ s.ie = true ∧ s.pc.getLsbD 0 = false ∧ s.pc.getLsbD 1 = true ∧
      decode .lower s.fetchBytes = .ok .nop) := by decide

theorem test_witness_InterruptTaken :
    let s : State := { start with intRequests := [true, false], psw := 0xC1 }
    s.intRequests = true :: [false] ∧ s.ie = true ∧ s.pc.getLsbD 0 = false ∧ s.pc.getLsbD 1 = false := by decide

theorem test_witness_MaskedInterruptIgnored : start.ie = false ∧ ∃ t, step start = .next t := ⟨by decide, _, rfl⟩

theorem test_witness_TrapEnters : start.pc.getLsbD 0 = false ∧ (fetching 0x1002 0).pc.getLsbD 0 = false := by decide

/-- Right after reset and right after an RTE. -/
theorem test_witness_RteReturns :
    start.bpswOpen = false ∧ start.bpcOpen = false ∧ start.returnFromEit.bpswOpen = true ∧
    start.returnFromEit.bpcOpen = true := ⟨rfl, rfl, rfl, rfl⟩

theorem test_witness_TrapThenRte : start.pc.getLsbD 0 = false ∧ (fetching 0x1002 0).pc.getLsbD 0 = false := by decide

/-- Each residue of a misaligned word address, the odd halfword address, with and without displacement; the LOCK bit
held; two different registers. -/
theorem test_witness_AddressException :
    start.pc.getLsbD 0 = false ∧
    ((setRegs [(2, 0x2001)] start).reg 2).toNat % 4 ≠ 0 ∧ ((setRegs [(2, 0x2002)] start).reg 2).toNat % 4 ≠ 0 ∧
    ((setRegs [(2, 0x2003)] start).reg 2).toNat % 4 ≠ 0 ∧ (1 : Reg) ≠ 2 ∧
    ({ setRegs [(2, 0xFFFFFFFF)] start with lockBit := true } : State).lockBit = true ∧
    (start.eaDisplaced 0x0001#16 2).toNat % 4 ≠ 0 ∧ (start.eaDisplaced 0xFFFE#16 2).toNat % 4 ≠ 0 ∧
    ((setRegs [(2, 0x2001)] start).reg 2).toNat % 2 ≠ 0 ∧ (start.eaDisplaced 0xFFFF#16 2).toNat % 2 ≠ 0 := by decide

theorem test_witness_R15Banked :
    start.sm = false ∧ ({ start with psw := 0x80 } : State).sm = true := by decide

theorem test_witness_FpsrSummary :
    start.reg 2 &&& 0x80000000#32 = 0 ∧ (setRegs [(2, 0x7FFFFFFF)] start).reg 2 &&& 0x80000000#32 = 0 := by decide

theorem test_witness_RefusedForms :
    (4 : CtrlNum) ∉ ([0, 1, 2, 3, 6, 7] : List CtrlNum) ∧ (5 : CtrlNum) ∉ ([0, 1, 2, 3, 6, 7] : List CtrlNum) ∧
    (8 : CtrlNum) ∉ ([0, 1, 2, 3, 6, 7] : List CtrlNum) ∧ (15 : CtrlNum) ∉ ([0, 1, 2, 3, 6, 7] : List CtrlNum) := by
  decide

/-- The addresses next to what a word or halfword covers, also where it wraps. -/
theorem test_witness_BigEndian :
    (0x2004 : Word) ∉ AccessWidth.word.bytesAt 0x2000 ∧ (0x1FFF : Word) ∉ AccessWidth.word.bytesAt 0x2000 ∧
    (0x3 : Word) ∉ AccessWidth.word.bytesAt 0xFFFFFFFF ∧ (0x2 : Word) ∈ AccessWidth.word.bytesAt 0xFFFFFFFF ∧
    (0x2002 : Word) ∉ AccessWidth.half.bytesAt 0x2000 := by decide

theorem test_witness_WordLoads :
    (start.reg 2).toNat % 4 = 0 ∧ ((setRegs [(2, 0xFFFFFFFC)] start).reg 2).toNat % 4 = 0 ∧ (1 : Reg) ≠ 2 ∧
    ((setRegs [(2, 0x2004)] start).reg 2 + (0xFFFC#16).signExtend 32).toNat % 4 = 0 := by decide

theorem test_witness_NarrowLoads :
    ((setRegs [(2, 0x2002)] start).reg 2).toNat % 2 = 0 ∧
    ((setRegs [(2, 0x2001)] start).reg 2 + (0xFFFF#16).signExtend 32).toNat % 2 = 0 := by decide

theorem test_witness_PlainStores :
    ((setRegs [(2, 0xFFFFFFFC)] start).eaIndirect 2).toNat % 4 = 0 ∧
    ((setRegs [(2, 0x2004)] start).eaDisplaced 0xFFFC#16 2).toNat % 4 = 0 ∧
    ((setRegs [(2, 0x2002)] start).eaIndirect 2).toNat % 2 = 0 ∧
    ((setRegs [(2, 0x2001)] start).eaDisplaced 0xFFFF#16 2).toNat % 2 = 0 := by decide

theorem test_witness_UpdatingStores :
    (1 : Reg) ≠ 2 ∧ ((setRegs [(2, 0xFFFFFFFC)] start).eaPreIncrement 2).toNat % 4 = 0 ∧
    (start.eaPreDecrement 2).toNat % 4 = 0 ∧ ((setRegs [(2, 0x2002)] start).eaIndirect 2).toNat % 2 = 0 := by decide

theorem test_witness_UnlockStores :
    ({ start with lockBit := true } : State).lockBit = true ∧ (start.eaIndirect 2).toNat % 4 = 0 ∧
    start.lockBit = false := by decide

/-- The divisors next to zero, and the operands next to the overflowing ones. -/
theorem test_witness_Divide :
    (setRegs [(2, 1)] start).reg 2 ≠ 0 ∧
    (let s := setRegs [(1, 0x80000000), (2, 0xFFFFFFFE)] start
     s.reg 2 ≠ 0 ∧ ¬ (s.reg 1 = 0x80000000#32 ∧ s.reg 2 = 0xFFFFFFFF#32)) ∧
    (let s := setRegs [(1, 0x80000001), (2, 0xFFFFFFFF)] start
     s.reg 2 ≠ 0 ∧ ¬ (s.reg 1 = 0x80000000#32 ∧ s.reg 2 = 0xFFFFFFFF#32)) := by decide

theorem test_witness_DivideCorners :
    start.reg 2 = 0 ∧ (setRegs [(1, 0x80000000), (2, 0xFFFFFFFF)] start).reg 1 = 0x80000000#32 ∧
    (setRegs [(1, 0x80000000), (2, 0xFFFFFFFF)] start).reg 2 = 0xFFFFFFFF#32 := by decide

/-- Exceptions that force the EIT, and exceptions that do not, each way round. -/
theorem test_witness_FpuFrame :
    start.pc.getLsbD 0 = false ∧ (unimplemented).raised.forced 0x100 = true ∧
    (invalid invalidNan).raised.forced 0x400 = true ∧ (invalid invalidNan).raised.forced 0x100 = false := by decide

theorem test_witness_FpuMaskedCompletes :
    start.fpsr &&& 0x00007D00#32 = 0x00000100#32 ∧
    ({ start with fpsr := 0x7C000103 } : State).fpsr &&& 0x00007D00#32 = 0x00000100#32 := by decide

/-- A state with two source operands and FPSR. -/
def operands (fpsr a b : Word) : State := setRegs [(1, a), (2, b)] { start with fpsr := fpsr }

/-- Zeros, infinities, a denormalized operand with DN = 1. -/
theorem test_witness_ComparisonOrder :
    fpIsNan 0x00000000 = false ∧ fpIsNan 0x80000000 = false ∧ fpIsNan 0x7F800000 = false ∧
    fpIsNan 0xFF800000 = false ∧ fpClass 0x00000000 ≠ .denormal ∧ fpClass 0x80000000 ≠ .denormal ∧
    fpClass 0x7F800000 ≠ .denormal ∧ fpClass 0xFF800000 ≠ .denormal ∧
    (operands 0x100 0x007FFFFF 0x80000001).fpsr.getLsbD 8 = true ∧ fpClass 0x007FFFFF = .denormal ∧
    fpIsNan 0x007FFFFF = false ∧ fpIsNan 0x80000001 = false := by decide

theorem test_witness_ComparisonUnordered :
    start.pc.getLsbD 0 = false ∧ fpClass 0x7F800001 = .snan ∧ fpClass 0xFFBFFFFF = .snan ∧
    (operands 0x100 0x7F800001 0).fpsr.getLsbD 10 = false ∧ (operands 0x500 0x7F800001 0).fpsr.getLsbD 10 = true ∧
    fpClass 0x7FC00000 = .qnan ∧ fpClass 0xFFFFFFFF = .qnan ∧ fpClass 0x00000001 = .denormal ∧
    fpClass 0x807FFFFF = .denormal ∧ (operands 0x000 0x00000001 0).fpsr.getLsbD 8 = false := by decide

theorem test_witness_NanResults :
    fpClass 0x7F800001 = .snan ∧ fpClass 0x7FC00000 = .qnan ∧ fpIsNan 0x7F800000 = false ∧
    (operands 0x100 0 0).fpsr.getLsbD 10 = false ∧ (operands 0x500 0 0).fpsr.getLsbD 10 = true ∧
    after 32 0xD1021000 (operands 0x100 0x7F800000 0) (fun t => t.fpsr.getLsbD 2) = some true ∧
    (maddCore 0x100 0x7FC00000 0x3F800000 0x3F800000 false).val = some 0x7FC00000#32 ∧
    (maddCore 0x100 0x7F800001 0x3F800000 0x3F800000 true).val = some 0x7FC00001#32 ∧
    (maddCore 0x100 0x3F800000 0x7F800001 0x3F800000 false).val = some 0x7FC00001#32 ∧
    (maddCore 0x100 0x3F800000 0x7F800000 0x00000000 false).val = some 0x7FFFFFFF#32 ∧
    (maddCore 0x100 0x3F800000 0x7F800000 0x00000000 false).raised.ivld = true := by decide +kernel

theorem test_witness_ZeroDivide :
    fpClass 0x00000000 = .zero ∧ fpClass 0x80000000 = .zero ∧ fpClass 0x00800000 = .normal ∧
    fpClass 0xFF7FFFFF = .normal ∧ fpClass 0xFF800000 = .inf ∧
    (operands 0x100 0x3F800000 0).fpsr.getLsbD 12 = false ∧ (operands 0x1100 0x3F800000 0).fpsr.getLsbD 12 = true ∧
    (operands 0x100 0 0).fpsr.getLsbD 10 = false := by decide

theorem test_witness_RoundingLaws : (1 : ℚ) ≠ 0 ∧ (-(1 / 3) : ℚ) ≠ 0 := by norm_num

/-- Where the clauses of a delivered result meet: an exact zero, just under and at 2^-126, the last value that does not
overflow and the first that does in each mode. -/
theorem test_witness_ArithmeticResults :
    fpValue 0x3F800000 - fpValue 0x3F800000 = 0 ∧ fpValue 0x00800001 - fpValue 0x00800000 ≠ 0 ∧
    |fpValue 0x00800001 - fpValue 0x00800000| < (2 : ℚ) ^ (-126 : Int) ∧
    (2 : ℚ) ^ (-126 : Int) ≤ |fpValue 0x01000000 - fpValue 0x00800000| ∧
    ¬ Overflows 0#2 (fpValue 0x7F7FFFFF + fpValue 0x72FFFFFF) ∧
    Overflows 0#2 (fpValue 0x7F7FFFFF + fpValue 0x73000000) ∧
    ¬ Overflows 1#2 (fpValue 0x7F7FFFFF + fpValue 0x737FFFFF) ∧
    Overflows 1#2 (fpValue 0x7F7FFFFF + fpValue 0x73800000) ∧
    ¬ Overflows 2#2 (fpValue 0x7F7FFFFF) ∧ Overflows 2#2 (fpValue 0x7F7FFFFF + fpValue 0x00800000) ∧
    ¬ Overflows 3#2 (fpValue 0x7F7FFFFF + fpValue 0x00800000) := by
  norm_num [Overflows, show fpValue 0x3F800000 = 1 by decide +kernel,
    show fpValue 0x00800001 = (2 ^ 23 + 1) / 2 ^ 149 by decide +kernel,
    show fpValue 0x00800000 = 1 / 2 ^ 126 by decide +kernel, show fpValue 0x01000000 = 1 / 2 ^ 125 by decide +kernel,
    show fpValue 0x7F7FFFFF = (2 ^ 24 - 1) * 2 ^ 104 by decide +kernel,
    show fpValue 0x72FFFFFF = (2 ^ 24 - 1) * 2 ^ 79 by decide +kernel,
    show fpValue 0x73000000 = 2 ^ 103 by decide +kernel,
    show fpValue 0x737FFFFF = (2 ^ 24 - 1) * 2 ^ 80 by decide +kernel,
    show fpValue 0x73800000 = 2 ^ 104 by decide +kernel, abs_of_pos]
  decide

theorem test_witness_IntegerToFloat :
    start.reg 1 = 0 ∧ (setRegs [(1, 1)] start).reg 1 ≠ 0 ∧ (setRegs [(1, 0xFFFFFFFF)] start).reg 1 ≠ 0 ∧
    ((setRegs [(1, 0x01000000)] start).reg 1).toInt.natAbs ≤ 2 ^ 24 ∧
    ((setRegs [(1, 0xFF000000)] start).reg 1).toInt.natAbs ≤ 2 ^ 24 ∧
    ((setRegs [(1, 0x01000000)] start).reg 1).toNat ≤ 2 ^ 24 := by decide

/-- The last values in range and the first out of it, on both sides, for both widths; NaN and infinity; zeros and
denormalized numbers with either DN. -/
theorem test_witness_FloatToInteger :
    (∀ p ∈ [((0xCF000000 : Word), (2 ^ 31 : Int)), (0x4EFFFFFF, 2 ^ 31), (0xC70000FF, 2 ^ 15), (0x46FFFFFF, 2 ^ 15)],
      fpClass p.1 = .normal ∧ -(p.2 : ℚ) - 1 < fpValue p.1 ∧ fpValue p.1 < p.2) ∧
    (∀ p ∈ [((0x4F000000 : Word), (2 ^ 31 : Int)), (0x47000000, 2 ^ 15)],
      fpClass p.1 = .normal ∧ (p.2 : ℚ) ≤ fpValue p.1) ∧
    (∀ p ∈ [((0xCF000001 : Word), (2 ^ 31 : Int)), (0xC7000100, 2 ^ 15)],
      fpClass p.1 = .normal ∧ fpValue p.1 ≤ -(p.2 : ℚ) - 1) ∧
    fpClass 0xFF800000 = .inf ∧ fpIsNan 0x7F800001 = true ∧ fpClass 0x80000000 = .zero ∧
    fpClass 0x00000001 = .denormal ∧ fpClass 0x807FFFFF = .denormal ∧ (operands 0x100 1 0).fpsr.getLsbD 8 = true ∧
    (operands 0x000 1 0).fpsr.getLsbD 8 = false ∧ (operands 0x000 1 0).pc.getLsbD 0 = false := by decide +kernel

/-- 1.5 times 1.0 raises nothing; so does a QNaN, which meets an Rdest that is none. -/
theorem test_witness_MultiplyAddResults :
    mulCore 0x100 0x3FC00000 0x3F800000 (fpsrMode 0x100) = ⟨some 0x3FC00000, noExceptions⟩ ∧
    mulCore 0x103 0x7FC00000 0x3F800000 (fpsrMode 0x103) = ⟨some 0x7FC00000, noExceptions⟩ ∧
    fpClass 0x3F800000 ≠ .qnan ∧ fpClass 0x3FC00000 ≠ .qnan := by decide +kernel

theorem test_witness_DenormalAsZero :
    (0x100 : Word).getLsbD 8 = true ∧ (0x000 : Word).getLsbD 8 = false ∧ fpIsNan 0x007FFFFF = false ∧
    fpIsNan 0x7F800000 = false ∧ fpClass 0x007FFFFF = .denormal ∧ fpClass 0x80000001 = .denormal := by decide

/-- What `f` sees of the state that executing an instruction answers. -/
def executed {α : Type} (i : Instr) (s : State) (f : State → α) : Option α :=
  match exec i s with
  | .next t => some (f t)
  | _ => none

/-- An instruction that changes C; a load that does, by the address exception; an FPU instruction, by the FPE. -/
theorem test_witness_ConditionBitWriters :
    start.pc.getLsbD 0 = false ∧
    executed (.cmp 1 2) (setRegs [(2, 1)] start) (fun t => t.c) = some true ∧
    executed (.ld 1 2) (setRegs [(2, 1)] { start with psw := 1 }) (fun t => t.c) = some false ∧
    executed (.fadd 0 1 2) { operands 0 1 0 with psw := 1 } (fun t => t.c) = some false := by decide +kernel

theorem test_witness_SpecialStateWriters :
    executed (.mvtc 1 7) start (fun t => t.fpsr) = some 0 ∧ start.fpsr ≠ 0 ∧
    executed (.mvtaclo 1) (setRegs [(1, 1)] start) (fun t => t.acc) = some 1 ∧ start.acc ≠ 1 ∧
    executed (.lock 1 2) start (fun t => t.lockBit) = some true ∧ start.lockBit = false ∧
    executed (.stb 1 2) (setRegs [(1, 1)] start) (fun t => t.mem) = some [(0, 1)] ∧ start.mem = [] ∧
    executed (.fadd 0 1 2) (operands 0x04000100 0x7F800001 0) (fun t => t.fpsr) = some 0x04000104 ∧
    (operands 0x04000100 0x7F800001 0).fpsr.getLsbD 26 = true := by decide +kernel

/-- A 16-bit instruction in the upper slot leads to the lower one. -/
theorem test_witness_LowerSlotOnlySequentially :
    start.pc.getLsbD 0 = false ∧ ∃ t, step start = .next t ∧ t.pc.getLsbD 1 = true := ⟨by decide, _, rfl, by decide⟩

theorem test_witness_LegalKept : State.reset.Legal ∧ ∃ t, step State.reset = .next t :=
  ⟨⟨by decide, by decide, by decide, by decide, by decide⟩, _, rfl⟩

end Sys2Proof.Tests
end

section
/-! PROOFS of the family 10_state.md: the banked R15 (R22), the computed bit FS of FPSR (R43) and the state at reset
(R33). First what the instructions concerned answer, then the rules on the state they use, then the statements. -/

namespace Sys2Proof.Machine

-- ## What the instructions answer

theorem exec_mv (d r : Reg) (s : State) : exec (.mv d r) s = .next ((s.setReg d (s.reg r)).advance 2) := rfl

theorem exec_setpsw (imm8 : BitVec 8) (s : State) :
    exec (.setpsw imm8) s = .next (State.advance { s with psw := s.psw ||| selectedPswBits imm8 } 2) := rfl

theorem exec_clrpsw (imm8 : BitVec 8) (s : State) :
    exec (.clrpsw imm8) s = .next (State.advance { s with psw := s.psw &&& ~~~ selectedPswBits imm8 } 2) := rfl

theorem exec_mvfc_fpsr (d : Reg) (s : State) :
    exec (.mvfc d 7) s = .next ((s.setReg d s.fpsrRead).advance 2) := rfl

theorem exec_mvtc_fpsr (r : Reg) (s : State) :
    exec (.mvtc r 7) s = .next (State.advance { s with fpsr := fpsrWritten s.fpsr (s.reg r) } 2) := rfl

-- ## R15 is one of two stack pointers (R22)

theorem reg_fifteen_of_sm_false {s : State} (h : s.sm = false) : s.reg 15 = s.spi := by simp [reg_fifteen, h]

theorem reg_fifteen_of_sm_true {s : State} (h : s.sm = true) : s.reg 15 = s.spu := by simp [reg_fifteen, h]

theorem spi_setReg_fifteen {s : State} (v : Word) (h : s.sm = false) : (s.setReg 15 v).spi = v := by
  rw [← reg_fifteen_of_sm_false (s := s.setReg 15 v) (by simpa using h), reg_setReg_self]

theorem spu_setReg_fifteen {s : State} (v : Word) (h : s.sm = true) : (s.setReg 15 v).spu = v := by
  rw [← reg_fifteen_of_sm_true (s := s.setReg 15 v) (by simpa using h), reg_setReg_self]

/-- An immediate of SETPSW or CLRPSW selects SM by its own bit 7 (R393, R394). -/
theorem getLsbD_selectedPswBits_sm (imm8 : BitVec 8) : (selectedPswBits imm8).getLsbD 7 = imm8.getLsbD 7 := by
  simp [selectedPswBits, unsignedField]

/-- After SETPSW of SM, R15 reaches SPU. -/
theorem exec_setpsw_sm {imm8 : BitVec 8} (s : State) (h : imm8.getLsbD 7 = true) :
    ∃ t, exec (.setpsw imm8) s = .next t ∧ t.reg 15 = s.spu := by
  refine ⟨_, exec_setpsw imm8 s, ?_⟩
  rw [reg_advance, reg_fifteen_of_sm_true]
  simp [State.sm, getLsbD_selectedPswBits_sm, h]

/-- After CLRPSW of SM, R15 reaches SPI. -/
theorem exec_clrpsw_sm {imm8 : BitVec 8} (s : State) (h : imm8.getLsbD 7 = true) :
    ∃ t, exec (.clrpsw imm8) s = .next t ∧ t.reg 15 = s.spi := by
  refine ⟨_, exec_clrpsw imm8 s, ?_⟩
  rw [reg_advance, reg_fifteen_of_sm_false]
  simp [State.sm, getLsbD_selectedPswBits_sm, h]

-- ## FS is computed at every read (R43)

theorem getLsbD_fpsrRead_summary (s : State) : s.fpsrRead.getLsbD 31 = fpsrSummary s.fpsr := by
  rw [State.fpsrRead, getLsbD_putBit _ _ _ _ (by omega), if_pos rfl]

theorem fpsrRead_congr {s t : State} (h : t.fpsr = s.fpsr) : t.fpsrRead = s.fpsrRead := by
  simp [State.fpsrRead, h]

/-- Neither mask of R48 holds bit 31, so what MVTC stores does not depend on it. -/
theorem fpsrWritten_or_summary (old v : Word) : fpsrWritten old (v ||| 0x80000000#32) = fpsrWritten old v := by
  have hplain : 0x80000000#32 &&& fpsrPlainMask = 0 := by decide
  have hcause : 0x80000000#32 &&& fpsrCauseMask = 0 := by decide
  have discard (m : Word) (hm : 0x80000000#32 &&& m = 0) : (v ||| 0x80000000#32) &&& m = v &&& m := by
    rw [BitVec.and_or_distrib_right, hm]
    exact BitVec.or_zero
  simp only [fpsrWritten, BitVec.and_assoc, discard _ hplain, discard _ hcause]

-- ## The state at reset (R33)

theorem legal_reset : State.reset.Legal where
  pc_even := by decide
  psw_reserved := by decide
  bpc_even := by decide
  fpsr_reserved := by decide
  mem_wf := wf_reset

theorem sm_reset : State.reset.sm = false := by decide

end Sys2Proof.Machine

namespace Sys2Proof.Proofs

open Sys2Proof.Machine

/-- Settles O14: each clause is one access to R15, by the rule on the bank that SM selects. -/
theorem r15Banked : Obligations.R15Banked := by
  intro d r s
  have reads : WritesReg (.mv d 15) s 2 d (if s.sm then s.spu else s.spi) := by
    rw [← reg_fifteen]
    exact writesReg_of (exec_mv d 15 s)
  have writesSpi (h : s.sm = false) : ∃ t, exec (.mv 15 r) s = .next t ∧ t.spi = s.reg r ∧ t.spu = s.spu :=
    ⟨_, exec_mv 15 r s, spi_setReg_fifteen _ h, spu_setReg s 15 _ fun _ => h⟩
  have writesSpu (h : s.sm = true) : ∃ t, exec (.mv 15 r) s = .next t ∧ t.spu = s.reg r ∧ t.spi = s.spi :=
    ⟨_, exec_mv 15 r s, spu_setReg_fifteen _ h, spi_setReg s 15 _ fun _ => h⟩
  exact ⟨reads, writesSpi, writesSpu, exec_setpsw_sm s rfl, exec_clrpsw_sm s rfl⟩

/-- Settles O17: MVFC by the bit 31 of what it reads, MVTC by the masks of what it stores. -/
theorem fpsrSummary : Obligations.FpsrSummary := by
  refine ⟨fun d s => ?_, fun r s _ => ?_⟩
  · obtain ⟨t, hexec, hpc, hframe, hreg⟩ := writesReg_of (exec_mvfc_fpsr d s)
    exact ⟨t, hexec, hpc, hframe, (congrArg (BitVec.getLsbD · 31) hreg).trans (getLsbD_fpsrRead_summary s)⟩
  · have same : fpsrWritten s.fpsr (s.reg r) =
        fpsrWritten (s.setReg r (s.reg r ||| 0x80000000#32)).fpsr
          ((s.setReg r (s.reg r ||| 0x80000000#32)).reg r) := by
      rw [setReg_fpsr, reg_setReg_self, fpsrWritten_or_summary]
    exact ⟨_, _, exec_mvtc_fpsr r s, exec_mvtc_fpsr r _, same, fpsrRead_congr same⟩

/-- Settles O60, field by field; that R15 is SPI is the rule on the bank while SM = 0. -/
theorem resetState : Obligations.ResetState := by
  refine ⟨legal_reset, ?psw, sm_reset, ?ie, ?c, reg_fifteen_of_sm_false sm_reset, rfl, ?fpsr, ?cbr⟩
  case psw | ie | c | fpsr | cbr => decide

end Sys2Proof.Proofs
end

section
/-! PROOFS of the family 30_encoding.md: the length rule (R111). First the lengths of what each row of the opcode map
holds (R118 to R121), then of what the decoder answers in either slot, then the statement. -/

namespace Sys2Proof

-- ## Rows 0000 to 0111 of the opcode map hold 16-bit instructions (R118)

theorem isLong_of_mem_decodeRow0 (r1 op2 r2 : BitVec 4) : ∀ i ∈ decodeRow0 r1 op2 r2, i.isLong = false := by
  fun_cases decodeRow0 <;> rintro i ⟨⟩ <;> rfl

theorem isLong_of_mem_decodeRow1 (r1 op2 r2 : BitVec 4) : ∀ i ∈ decodeRow1 r1 op2 r2, i.isLong = false := by
  fun_cases decodeRow1 <;> rintro i ⟨⟩ <;> rfl

theorem isLong_of_mem_decodeRow2 (r1 op2 r2 : BitVec 4) : ∀ i ∈ decodeRow2 r1 op2 r2, i.isLong = false := by
  fun_cases decodeRow2 <;> rintro i ⟨⟩ <;> rfl

theorem isLong_of_mem_decodeRow3 (r1 op2 r2 : BitVec 4) : ∀ i ∈ decodeRow3 r1 op2 r2, i.isLong = false := by
  fun_cases decodeRow3 <;> rintro i ⟨⟩ <;> rfl

theorem isLong_of_mem_decodeRow5 (r1 op2 r2 : BitVec 4) : ∀ i ∈ decodeRow5 r1 op2 r2, i.isLong = false := by
  fun_cases decodeRow5 <;> rintro i ⟨⟩ <;> rfl

theorem isLong_of_mem_decodeRow7 (r1 op2 r2 : BitVec 4) : ∀ i ∈ decodeRow7 r1 op2 r2, i.isLong = false := by
  fun_cases decodeRow7 <;> rintro i ⟨⟩ <;> rfl

/-- Rows 0100 and 0110 hold one instruction each. -/
theorem isLong_of_mem_decode16 (h : Half) : ∀ i ∈ decode16 h, i.isLong = false := by
  rw [decode16]
  generalize column h 12 = op1, column h 8 = r1, column h 4 = op2, column h 0 = r2
  fun_cases decodeShort op1 r1 op2 r2
  case case1 => exact isLong_of_mem_decodeRow0 r1 op2 r2
  case case2 => exact isLong_of_mem_decodeRow1 r1 op2 r2
  case case3 => exact isLong_of_mem_decodeRow2 r1 op2 r2
  case case4 => exact isLong_of_mem_decodeRow3 r1 op2 r2
  case case6 => exact isLong_of_mem_decodeRow5 r1 op2 r2
  case case8 => exact isLong_of_mem_decodeRow7 r1 op2 r2
  case case5 | case7 => rintro i ⟨⟩; rfl
  case case9 => rintro i ⟨⟩

-- ## Rows 1000 to 1111 hold 32-bit instructions (R118)

theorem isLong_of_mem_decodeRow8 (r1 op2 r2 : BitVec 4) (lo : Half) :
    ∀ i ∈ decodeRow8 r1 op2 r2 lo, i.isLong = true := by
  fun_cases decodeRow8 <;> rintro i ⟨⟩ <;> rfl

theorem isLong_of_mem_decodeRow9 (r1 op2 r2 : BitVec 4) (lo : Half) :
    ∀ i ∈ decodeRow9 r1 op2 r2 lo, i.isLong = true := by
  fun_cases decodeRow9 <;> rintro i ⟨⟩ <;> rfl

theorem isLong_of_mem_decodeRowA (r1 op2 r2 : BitVec 4) (lo : Half) :
    ∀ i ∈ decodeRowA r1 op2 r2 lo, i.isLong = true := by
  fun_cases decodeRowA <;> rintro i ⟨⟩ <;> rfl

theorem isLong_of_mem_decodeRowB (r1 op2 r2 : BitVec 4) (lo : Half) :
    ∀ i ∈ decodeRowB r1 op2 r2 lo, i.isLong = true := by
  fun_cases decodeRowB <;> rintro i ⟨⟩ <;> rfl

theorem isLong_of_mem_decodeFpu (r1 r2 op3 dest op4 last : BitVec 4) :
    ∀ i ∈ decodeFpu r1 r2 op3 dest op4 last, i.isLong = true := by
  fun_cases decodeFpu <;> rintro i ⟨⟩ <;> rfl

theorem isLong_of_mem_decodeRowD (r1 op2 r2 : BitVec 4) (lo : Half) :
    ∀ i ∈ decodeRowD r1 op2 r2 lo, i.isLong = true := by
  fun_cases decodeRowD
  case case1 => exact isLong_of_mem_decodeFpu r1 r2 _ _ _ _
  case case2 => rintro i ⟨⟩; rfl
  case case3 | case4 => rintro i ⟨⟩

theorem isLong_of_mem_decodeRowF (r1 op2 r2 : BitVec 4) (lo : Half) :
    ∀ i ∈ decodeRowF r1 op2 r2 lo, i.isLong = true := by
  fun_cases decodeRowF <;> rintro i ⟨⟩ <;> rfl

/-- Row 1110 holds LD24 alone, row 1100 nothing. -/
theorem isLong_of_mem_decode32 (hi lo : Half) : ∀ i ∈ decode32 hi lo, i.isLong = true := by
  rw [decode32]
  generalize column hi 12 = op1, column hi 8 = r1, column hi 4 = op2, column hi 0 = r2
  fun_cases decodeLong op1 r1 op2 r2 lo
  case case1 => exact isLong_of_mem_decodeRow8 r1 op2 r2 lo
  case case2 => exact isLong_of_mem_decodeRow9 r1 op2 r2 lo
  case case3 => exact isLong_of_mem_decodeRowA r1 op2 r2 lo
  case case4 => exact isLong_of_mem_decodeRowB r1 op2 r2 lo
  case case5 => exact isLong_of_mem_decodeRowD r1 op2 r2 lo
  case case6 => rintro i ⟨⟩; rfl
  case case7 => exact isLong_of_mem_decodeRowF r1 op2 r2 lo
  case case8 => rintro i ⟨⟩

-- ## The length of what the decoder answers (R111)

theorem orUndefined_eq_ok {o : Option Instr} {i : Instr} : orUndefined o = .ok i ↔ o = some i := by
  cases o <;> simp [orUndefined]

/-- At a word-aligned address the top bit of the first halfword is the length. -/
theorem isLong_of_decodeHalves_upper {h : Half} {rest : List Half} {i : Instr}
    (hdec : decodeHalves .upper (h :: rest) = .ok i) : i.isLong = h.msb := by
  cases hm : h.msb with
  | false =>
    have short : decode16 h = some i := orUndefined_eq_ok.mp (by simpa [decodeHalves, hm] using hdec)
    exact isLong_of_mem_decode16 h i short
  | true =>
    cases rest with
    | nil => simp [decodeHalves, hm] at hdec
    | cons lo _ =>
      have long : decode32 h lo = some i := orUndefined_eq_ok.mp (by simpa [decodeHalves, hm] using hdec)
      exact isLong_of_mem_decode32 h lo i long

/-- In the lower halfword the top bit marks the parallel NOP, which has 16 bits as all others there (R113). -/
theorem isLong_of_decodeHalves_lower {h : Half} {rest : List Half} {i : Instr}
    (hdec : decodeHalves .lower (h :: rest) = .ok i) : i.isLong = false := by
  cases hm : h.msb with
  | false =>
    have short : decode16 h = some i := orUndefined_eq_ok.mp (by simpa [decodeHalves, hm] using hdec)
    exact isLong_of_mem_decode16 h i short
  | true =>
    obtain ⟨-, rfl⟩ : h = 0xF000#16 ∧ Instr.nop = i := by simpa [decodeHalves, hm, ite_eq_iff] using hdec
    rfl

-- ## The first halfword of an encoding

/-- The top bit of a halfword is that of its first byte (R85). -/
theorem msb_append_bytes (b0 b1 : Byte) : (b0 ++ b1 : Half).msb = b0.msb :=
  (BitVec.msb_append (x := b0) (y := b1)).trans (by simp)

/-- An encoding begins with its op1 column, whose top bit is 1 in the 32-bit encodings alone (R111). -/
theorem encode_eq_cons (i : Instr) : ∃ h rest, encode i = h :: rest ∧ h.msb = i.isLong := by
  cases i <;> exact ⟨_, _, rfl, msb_halfOf ..⟩

end Sys2Proof

namespace Sys2Proof.Proofs

/-- Settles O4: four bytes are two halfwords, the first of which the decoder judges by its top bit. -/
theorem lengthRule : Obligations.LengthRule := by
  refine ⟨fun b0 b1 b2 b3 i hdec => ?upper, fun b0 b1 b2 b3 i hdec => ?lower, encode_eq_cons⟩
  case upper => exact (isLong_of_decodeHalves_upper hdec).trans (msb_append_bytes b0 b1)
  case lower => exact isLong_of_decodeHalves_lower hdec

end Sys2Proof.Proofs
end

section
/-! PROOFS of the family 30_encoding.md: the decoder undoes the encoder and the encoder the decoder. First what the
decoder answers for the columns of each encoding (R118 to R121), then the columns from which each row of the opcode map
answers an instruction, then the statements. -/

namespace Sys2Proof

-- ## The decoder on the halfwords of an encoding

/-- The decoder's tables answer an instruction for its halfwords, whose first has the instruction's length as its top
bit. -/
inductive Recognised (i : Instr) : Prop where
  | short (h : Half) (enc : encode i = [h]) (msb : h.msb = false) (dec : decode16 h = some i)
  | long (h lo : Half) (enc : encode i = [h, lo]) (msb : h.msb = true) (dec : decode32 h lo = some i)

theorem recognised_of_decodeShort {i : Instr} {c0 c1 c2 c3 : BitVec 4} (enc : encode i = [halfOf c0 c1 c2 c3])
    (msb : c0.msb = false) (dec : decodeShort c0 c1 c2 c3 = some i) : Recognised i :=
  .short _ enc (by rw [msb_halfOf, msb]) (by simpa [decode16] using dec)

theorem recognised_of_decodeLong {i : Instr} {c0 c1 c2 c3 : BitVec 4} {lo : Half}
    (enc : encode i = [halfOf c0 c1 c2 c3, lo]) (msb : c0.msb = true) (dec : decodeLong c0 c1 c2 c3 lo = some i) :
    Recognised i :=
  .long _ lo enc (by rw [msb_halfOf, msb]) (by simpa [decode32] using dec)

/-- Row 1101, column 0000: the columns of the second halfword reach the FPU group (R121). -/
theorem recognised_of_decodeFpu {i : Instr} {r1 r2 : Reg} {op3 : BitVec 4} {dest : Reg} {op4 : BitVec 4}
    (enc : encode i = halvesFpu r1 r2 op3 dest op4)
    (dec : decodeFpu (regField r1) (regField r2) op3 (regField dest) op4 0x0#4 = some i) : Recognised i :=
  recognised_of_decodeLong enc rfl (by simpa [decodeLong, decodeRowD] using dec)

theorem recognised (i : Instr) : Recognised i := by
  cases i
  -- rows 0000 to 0011: two registers, or a fixed column and a register
  case subv | subx | sub | neg | cmp | cmpu | addv | addx | add | not | and | xor | or | srl | sra | sll | mul | mv |
      mvfc | mvtc | jl | jmp | trap | stb | sth | sthPostInc | st | unlock | stPreInc | stPreDec | ldb | ldub | ldh |
      lduh | ld | lock | ldPostInc | mulhi | mullo | mulwhi | mulwlo | machi | maclo | macwhi | macwlo | rte =>
    exact recognised_of_decodeShort rfl rfl rfl
  -- rows 0101 and 0111 without a field of their own
  case mvtachi | mvtaclo | mvfachi | mvfaclo | mvfacmi | rac | rach | nop =>
    exact recognised_of_decodeShort rfl rfl rfl
  -- rows 0100, 0110 and 0111 with an 8-bit field
  case addi | ldi8 =>
    exact recognised_of_decodeShort rfl rfl (by simp [decodeShort])
  case setpsw | clrpsw | bc8 | bnc8 | bl8 | bra8 =>
    exact recognised_of_decodeShort rfl rfl (by simp [decodeShort, decodeRow7])
  -- row 0101 with a 3-bit opcode and a 5-bit amount
  case slli | srai | srli =>
    exact recognised_of_decodeShort rfl rfl (by simp [decodeShort, decodeRow5, opcode_of_amount, amount_of_amount])
  -- a bit position in the second column
  case btst => exact recognised_of_decodeShort rfl rfl (by simp [decodeShort, decodeRow0, -BitVec.toFin_extractLsb'])
  case bset | bclr => exact recognised_of_decodeLong rfl rfl (by simp [decodeLong, decodeRowA, -BitVec.toFin_extractLsb'])
  -- rows 1000 to 1011 and column 1100 of row 1101: the second halfword is an immediate, a displacement or 0
  case cmpi | cmpui | addv3 | add3 | and3 | xor3 | or3 | div | divu | rem | remu | srl3 | sra3 | sll3 | ldi16 |
      stbDisp | sthDisp | stDisp | ldbDisp | ldubDisp | ldhDisp | lduhDisp | ldDisp | beq | bne | beqz | bnez | bltz |
      bgez | blez | bgtz | seth =>
    exact recognised_of_decodeLong rfl rfl rfl
  -- rows 1110 and 1111: a field of 24 bits
  case ld24 => exact recognised_of_decodeLong rfl rfl (by simp [decodeLong])
  case bc24 | bnc24 | bl24 | bra24 => exact recognised_of_decodeLong rfl rfl (by simp [decodeLong, decodeRowF])
  -- column 0000 of row 1101: the FPU group
  case fadd | fsub | fmul | fdiv | fmadd | fmsub | itof | utof | ftoi | ftos | fcmp | fcmpe =>
    exact recognised_of_decodeFpu rfl rfl

-- ## The encoder on what a row of the opcode map answers

/-- A column whose top bit is 0 is that of the bit position it holds. -/
theorem bitField_toFin {r1 : BitVec 4} (h : ¬ r1.getLsbD 3 = true) : bitField (r1.extractLsb' 0 3).toFin = r1 := by
  revert r1; decide

/-- An 8-bit field made of two columns is laid out as these columns. -/
theorem halfWith8_append (c0 c1 op2 r2 : BitVec 4) : halfWith8 c0 c1 (op2 ++ r2) = halfOf c0 c1 op2 r2 := by
  have h1 : BitVec.extractLsb' 4 4 (op2 ++ r2) = op2 := BitVec.extractLsb'_append_eq_left
  have h0 : BitVec.extractLsb' 0 4 (op2 ++ r2) = r2 := BitVec.extractLsb'_append_eq_right
  exact congrArg₂ (halfOf c0 c1) h1 h0

/-- A 5-bit amount below its opcode is laid out as the two columns it was read from. -/
theorem halfWith5_append (c0 c1 op2 r2 : BitVec 4) :
    halfWith5 c0 c1 (op2.extractLsb' 1 3) (op2.extractLsb' 0 1 ++ r2) = halfOf c0 c1 op2 r2 := by
  have h1 : op2.extractLsb' 1 3 ++ BitVec.extractLsb' 4 1 (op2.extractLsb' 0 1 ++ r2) = op2 := by
    rw [BitVec.extractLsb'_append_eq_left]; exact BitVec.extractLsb'_append_extractLsb'
  have h0 : BitVec.extractLsb' 0 4 (op2.extractLsb' 0 1 ++ r2) = r2 := BitVec.extractLsb'_append_eq_right
  exact congrArg₂ (halfOf c0 c1) h1 h0

/-- A 24-bit field made of two columns and a halfword is laid out as these. -/
theorem halvesWith24_append (c0 c1 op2 r2 : BitVec 4) (lo : Half) :
    halvesWith24 c0 c1 (op2 ++ r2 ++ lo) = [halfOf c0 c1 op2 r2, lo] := by
  have h2 : BitVec.extractLsb' 20 4 (op2 ++ r2 ++ lo) = op2 := by
    rw [BitVec.extractLsb'_append_eq_of_le (by omega)]; exact BitVec.extractLsb'_append_eq_left
  have h1 : BitVec.extractLsb' 16 4 (op2 ++ r2 ++ lo) = r2 := by
    rw [BitVec.extractLsb'_append_eq_of_le (by omega)]; exact BitVec.extractLsb'_append_eq_right
  have h0 : BitVec.extractLsb' 0 16 (op2 ++ r2 ++ lo) = lo := BitVec.extractLsb'_append_eq_right
  exact congrArg₂ (· :: [·]) (congrArg₂ (halfOf c0 c1) h2 h1) h0

theorem encode_of_mem_decodeRow0 (r1 op2 r2 : BitVec 4) :
    ∀ i ∈ decodeRow0 r1 op2 r2, encode i = [halfOf 0x0#4 r1 op2 r2] := by
  fun_cases decodeRow0 <;> rintro i ⟨⟩
  case case15 h => rw [encode, bitField_toFin h]; rfl
  all_goals rfl

theorem encode_of_mem_decodeRow1 (r1 op2 r2 : BitVec 4) :
    ∀ i ∈ decodeRow1 r1 op2 r2, encode i = [halfOf 0x1#4 r1 op2 r2] := by
  fun_cases decodeRow1 <;> rintro i ⟨⟩
  case case11 h => obtain ⟨rfl, rfl⟩ := h; rfl
  all_goals rfl

theorem encode_of_mem_decodeRow2 (r1 op2 r2 : BitVec 4) :
    ∀ i ∈ decodeRow2 r1 op2 r2, encode i = [halfOf 0x2#4 r1 op2 r2] := by
  fun_cases decodeRow2 <;> rintro i ⟨⟩ <;> rfl

theorem encode_of_mem_decodeRow3 (r1 op2 r2 : BitVec 4) :
    ∀ i ∈ decodeRow3 r1 op2 r2, encode i = [halfOf 0x3#4 r1 op2 r2] := by
  fun_cases decodeRow3 <;> rintro i ⟨⟩ <;> rfl

theorem encode_of_mem_decodeRow5 (r1 op2 r2 : BitVec 4) :
    ∀ i ∈ decodeRow5 r1 op2 r2, encode i = [halfOf 0x5#4 r1 op2 r2] := by
  fun_cases decodeRow5 <;> rintro i ⟨⟩
  case case1 h | case2 h | case3 h => rw [encode, ← h, halfWith5_append]; rfl
  all_goals subst_vars; rfl

theorem encode_of_mem_decodeRow7 (r1 op2 r2 : BitVec 4) :
    ∀ i ∈ decodeRow7 r1 op2 r2, encode i = [halfOf 0x7#4 r1 op2 r2] := by
  fun_cases decodeRow7 <;> rintro i ⟨⟩
  case case1 h => obtain ⟨rfl, rfl⟩ := h; rfl
  all_goals rw [encode, halfWith8_append]

/-- A 16-bit instruction's columns are those of its encoding; rows 0100 and 0110 hold one instruction each. -/
theorem encode_of_mem_decode16 (h : Half) : ∀ i ∈ decode16 h, encode i = [h] := by
  rw [decode16]
  conv => enter [i, _]; rw [← halfOf_columns h]
  generalize column h 12 = op1, column h 8 = r1, column h 4 = op2, column h 0 = r2
  fun_cases decodeShort op1 r1 op2 r2
  case case1 => exact encode_of_mem_decodeRow0 r1 op2 r2
  case case2 => exact encode_of_mem_decodeRow1 r1 op2 r2
  case case3 => exact encode_of_mem_decodeRow2 r1 op2 r2
  case case4 => exact encode_of_mem_decodeRow3 r1 op2 r2
  case case6 => exact encode_of_mem_decodeRow5 r1 op2 r2
  case case8 => exact encode_of_mem_decodeRow7 r1 op2 r2
  case case5 | case7 => rintro i ⟨⟩; rw [encode, halfWith8_append]; rfl
  case case9 => rintro i ⟨⟩

theorem encode_of_mem_decodeRow8 (r1 op2 r2 : BitVec 4) (lo : Half) :
    ∀ i ∈ decodeRow8 r1 op2 r2 lo, encode i = [halfOf 0x8#4 r1 op2 r2, lo] := by
  fun_cases decodeRow8 <;> rintro i ⟨⟩ <;> subst_vars <;> rfl

theorem encode_of_mem_decodeRow9 (r1 op2 r2 : BitVec 4) (lo : Half) :
    ∀ i ∈ decodeRow9 r1 op2 r2 lo, encode i = [halfOf 0x9#4 r1 op2 r2, lo] := by
  fun_cases decodeRow9 <;> rintro i ⟨⟩ <;> subst_vars <;> rfl

theorem encode_of_mem_decodeRowA (r1 op2 r2 : BitVec 4) (lo : Half) :
    ∀ i ∈ decodeRowA r1 op2 r2 lo, encode i = [halfOf 0xA#4 r1 op2 r2, lo] := by
  fun_cases decodeRowA <;> rintro i ⟨⟩
  case case5 h | case7 h => rw [encode, bitField_toFin h]; rfl
  all_goals rfl

theorem encode_of_mem_decodeRowB (r1 op2 r2 : BitVec 4) (lo : Half) :
    ∀ i ∈ decodeRowB r1 op2 r2 lo, encode i = [halfOf 0xB#4 r1 op2 r2, lo] := by
  fun_cases decodeRowB <;> rintro i ⟨⟩ <;> subst_vars <;> rfl

theorem encode_of_mem_decodeFpu (r1 r2 op3 dest op4 last : BitVec 4) :
    ∀ i ∈ decodeFpu r1 r2 op3 dest op4 last, encode i = [halfOf 0xD#4 r1 0x0#4 r2, halfOf op3 dest op4 last] := by
  fun_cases decodeFpu <;> rintro i ⟨⟩ <;> subst_vars <;> rfl

theorem encode_of_mem_decodeRowD (r1 op2 r2 : BitVec 4) (lo : Half) :
    ∀ i ∈ decodeRowD r1 op2 r2 lo, encode i = [halfOf 0xD#4 r1 op2 r2, lo] := by
  fun_cases decodeRowD
  case case1 =>
    conv => enter [i, _]; rw [← halfOf_columns lo]
    exact encode_of_mem_decodeFpu r1 r2 _ _ _ _
  case case2 => rintro i ⟨⟩; subst_vars; rfl
  case case3 | case4 => rintro i ⟨⟩

theorem encode_of_mem_decodeRowF (r1 op2 r2 : BitVec 4) (lo : Half) :
    ∀ i ∈ decodeRowF r1 op2 r2 lo, encode i = [halfOf 0xF#4 r1 op2 r2, lo] := by
  fun_cases decodeRowF <;> rintro i ⟨⟩ <;> rw [encode, halvesWith24_append]

/-- A 32-bit instruction's columns and second halfword are those of its encoding. -/
theorem encode_of_mem_decode32 (hi lo : Half) : ∀ i ∈ decode32 hi lo, encode i = [hi, lo] := by
  rw [decode32]
  conv => enter [i, _]; rw [← halfOf_columns hi]
  generalize column hi 12 = op1, column hi 8 = r1, column hi 4 = op2, column hi 0 = r2
  fun_cases decodeLong op1 r1 op2 r2 lo
  case case1 => exact encode_of_mem_decodeRow8 r1 op2 r2 lo
  case case2 => exact encode_of_mem_decodeRow9 r1 op2 r2 lo
  case case3 => exact encode_of_mem_decodeRowA r1 op2 r2 lo
  case case4 => exact encode_of_mem_decodeRowB r1 op2 r2 lo
  case case5 => exact encode_of_mem_decodeRowD r1 op2 r2 lo
  case case6 => rintro i ⟨⟩; rw [encode, halvesWith24_append]; rfl
  case case7 => exact encode_of_mem_decodeRowF r1 op2 r2 lo
  case case8 => rintro i ⟨⟩

-- ## The two directions for bytes

/-- The bytes of a halfword given as its bytes (R85). -/
theorem bytesOfHalves_append_cons (b0 b1 : Byte) (rest : List Half) :
    bytesOfHalves ((b0 ++ b1) :: rest) = b0 :: b1 :: bytesOfHalves rest := by
  have hi : (b0 ++ b1).extractLsb' 8 8 = b0 := BitVec.extractLsb'_append_eq_left
  have lo : (b0 ++ b1).extractLsb' 0 8 = b1 := BitVec.extractLsb'_append_eq_right
  rw [bytesOfHalves, hi, lo]

/-- What the decoder answers in the upper slot is encoded by the halfwords it was read from. -/
theorem encode_of_decodeHalves_upper {h lo : Half} {rest : List Half} {i : Instr}
    (hdec : decodeHalves .upper (h :: lo :: rest) = .ok i) : encode i = if i.isLong then [h, lo] else [h] := by
  have hlen := isLong_of_decodeHalves_upper hdec
  cases hm : h.msb with
  | false =>
    have short : decode16 h = some i := orUndefined_eq_ok.mp (by simpa [decodeHalves, hm] using hdec)
    rw [if_neg (by simp [hlen, hm])]
    exact encode_of_mem_decode16 h i short
  | true =>
    have long : decode32 h lo = some i := orUndefined_eq_ok.mp (by simpa [decodeHalves, hm] using hdec)
    rw [if_pos (by simp [hlen, hm])]
    exact encode_of_mem_decode32 h lo i long

/-- In the lower slot too, but for the parallel NOP (R113). -/
theorem encode_of_decodeHalves_lower {h : Half} {rest : List Half} {i : Instr}
    (hdec : decodeHalves .lower (h :: rest) = .ok i) : encode i = [h] ∨ (i = .nop ∧ h = 0xF000#16) := by
  cases hm : h.msb with
  | false =>
    have short : decode16 h = some i := orUndefined_eq_ok.mp (by simpa [decodeHalves, hm] using hdec)
    exact .inl (encode_of_mem_decode16 h i short)
  | true =>
    obtain ⟨hnop, rfl⟩ : h = 0xF000#16 ∧ Instr.nop = i := by simpa [decodeHalves, hm, ite_eq_iff] using hdec
    exact .inr ⟨rfl, hnop⟩

theorem append_bytes_eq_parallelNop {b0 b1 : Byte} (h : (b0 ++ b1 : Half) = 0xF000#16) :
    b0 = 0xF0#8 ∧ b1 = 0x00#8 := by
  have hi : (b0 ++ b1).extractLsb' 8 8 = b0 := BitVec.extractLsb'_append_eq_left
  have lo : (b0 ++ b1).extractLsb' 0 8 = b1 := BitVec.extractLsb'_append_eq_right
  exact ⟨hi ▸ congrArg (BitVec.extractLsb' 8 8) h, lo ▸ congrArg (BitVec.extractLsb' 0 8) h⟩

/-- An instruction's bytes decode to it in the upper slot, a 16-bit one's in the lower slot too. -/
theorem decode_encodeBytes (i : Instr) (rest : List Byte) :
    decode .upper (encodeBytes i ++ rest) = .ok i ∧
      (i.isLong = false → decode .lower (encodeBytes i ++ rest) = .ok i) := by
  rw [encodeBytes]
  cases recognised i with
  | short h enc msb dec =>
    rw [enc, decode_upper_short h rest msb, decode_lower_short h rest msb, ← decode16, dec]
    exact ⟨rfl, fun _ => rfl⟩
  | long h lo enc msb dec =>
    rw [enc, decode_upper_long h lo rest msb, ← decode32, dec]
    exact ⟨rfl, fun hshort => absurd hshort (by simp [Instr.isLong, enc])⟩

theorem encodeBytes_of_decode_upper {b0 b1 b2 b3 : Byte} {i : Instr} (hdec : decode .upper [b0, b1, b2, b3] = .ok i) :
    encodeBytes i = if i.isLong then [b0, b1, b2, b3] else [b0, b1] := by
  rw [encodeBytes, encode_of_decodeHalves_upper hdec, apply_ite bytesOfHalves]
  simp only [bytesOfHalves_append_cons]
  rfl

theorem encodeBytes_of_decode_lower {b0 b1 b2 b3 : Byte} {i : Instr} (hdec : decode .lower [b0, b1, b2, b3] = .ok i) :
    encodeBytes i = [b0, b1] ∨ (i = .nop ∧ b0 = 0xF0#8 ∧ b1 = 0x00#8) := by
  refine (encode_of_decodeHalves_lower hdec).imp (fun enc => ?_) (fun ⟨hi, hnop⟩ => ⟨hi, append_bytes_eq_parallelNop hnop⟩)
  rw [encodeBytes, enc, bytesOfHalves_append_cons, bytesOfHalves]

end Sys2Proof

namespace Sys2Proof.Proofs

/-- Settles O2, by the columns of each encoding in the decoder's tables. -/
theorem decodeEncode : Obligations.DecodeEncode := decode_encodeBytes

/-- Settles O3, row by row of the opcode map. -/
theorem encodeDecode : Obligations.EncodeDecode := fun _ _ _ _ _ =>
  ⟨encodeBytes_of_decode_upper, fun hdec => ⟨isLong_of_decodeHalves_lower hdec, encodeBytes_of_decode_lower hdec⟩⟩

/-- Settles O1: the decoder evaluated on each printed word. -/
theorem decodeSampleWords : Obligations.DecodeSampleWords := by
  unfold Obligations.DecodeSampleWords
  decide

end Sys2Proof.Proofs
end

section
/-! PROOFS of the statements on every instruction, part 1: the ways an instruction can end, said once (`Ending`,
`exec_ending`), so that a statement on all instructions is one on eleven endings. -/

namespace Sys2Proof

/-- The bytes an instruction has, as the program counter counts them (R26). -/
def Instr.size (i : Instr) : Word := if i.isLong then 4 else 2

/-- The instructions whose meaning computes the condition bit (R28). -/
def Instr.computesC : Instr → Bool
  | .addv _ _ | .addx _ _ | .subv _ _ | .subx _ _ | .cmp _ _ | .cmpu _ _ | .addv3 _ _ _ | .cmpi _ _ | .cmpui _ _
  | .btst _ _ => true
  | _ => false

/-- The instructions that write the accumulator (R290, R51). -/
def Instr.writesAcc : Instr → Bool
  | .rac | .rach | .mul _ _ | .mulhi _ _ | .mullo _ _ | .mulwhi _ _ | .mulwlo _ _ | .machi _ _ | .maclo _ _
  | .macwhi _ _ | .macwlo _ _ | .mvtachi _ | .mvtaclo _ => true
  | _ => false

/-- The instructions that write the LOCK bit (R62). -/
def Instr.writesLock : Instr → Bool
  | .lock _ _ | .unlock _ _ | .bset _ _ _ | .bclr _ _ _ => true
  | _ => false

/-- The instructions that store to memory. -/
def Instr.storesMem : Instr → Bool
  | .st _ _ | .stPreInc _ _ | .stPreDec _ _ | .stDisp _ _ _ | .stb _ _ | .stbDisp _ _ _ | .sth _ _ | .sthPostInc _ _
  | .sthDisp _ _ _ | .unlock _ _ | .bset _ _ _ | .bclr _ _ _ => true
  | _ => false

/-- The twelve FPU instructions (R326). -/
def Instr.isFpu : Instr → Bool
  | .fadd _ _ _ | .fsub _ _ _ | .fmul _ _ _ | .fdiv _ _ _ | .fmadd _ _ _ | .fmsub _ _ _ | .fcmp _ _ _
  | .fcmpe _ _ _ | .itof _ _ | .utof _ _ | .ftoi _ _ | .ftos _ _ => true
  | _ => false

end Sys2Proof

namespace Sys2Proof.Machine

-- ## Several registers written one after the other

/-- The state with the given registers written in order. -/
def State.writeRegs (s : State) : List (Reg × Word) → State
  | [] => s
  | (r, v) :: rest => (s.setReg r v).writeRegs rest

/-- Writing registers keeps every part of the state but R0 to R14 and the stack pointers. -/
theorem writeRegs_keeps {α : Type} (f : State → α) (hf : ∀ s r v, f (s.setReg r v) = f s) (s : State)
    (rs : List (Reg × Word)) : f (s.writeRegs rs) = f s := by
  induction rs generalizing s with
  | nil => rfl
  | cons p rest ih => exact (ih _).trans (hf s p.1 p.2)

section
variable (s : State) (rs : List (Reg × Word))
@[simp] theorem writeRegs_pc : (s.writeRegs rs).pc = s.pc := writeRegs_keeps State.pc setReg_pc s rs
@[simp] theorem writeRegs_psw : (s.writeRegs rs).psw = s.psw := writeRegs_keeps State.psw setReg_psw s rs
@[simp] theorem writeRegs_bpc : (s.writeRegs rs).bpc = s.bpc := writeRegs_keeps State.bpc setReg_bpc s rs
@[simp] theorem writeRegs_fpsr : (s.writeRegs rs).fpsr = s.fpsr := writeRegs_keeps State.fpsr setReg_fpsr s rs
@[simp] theorem writeRegs_acc : (s.writeRegs rs).acc = s.acc := writeRegs_keeps State.acc setReg_acc s rs
@[simp] theorem writeRegs_lockBit : (s.writeRegs rs).lockBit = s.lockBit :=
  writeRegs_keeps State.lockBit setReg_lockBit s rs
@[simp] theorem writeRegs_mem : (s.writeRegs rs).mem = s.mem := writeRegs_keeps State.mem setReg_mem s rs
@[simp] theorem writeRegs_vectors : (s.writeRegs rs).vectors = s.vectors :=
  writeRegs_keeps State.vectors setReg_vectors s rs
@[simp] theorem writeRegs_intRequests : (s.writeRegs rs).intRequests = s.intRequests :=
  writeRegs_keeps State.intRequests setReg_intRequests s rs
@[simp] theorem c_writeRegs : (s.writeRegs rs).c = s.c := writeRegs_keeps State.c c_setReg s rs
end

-- ## The endings

/-- The ways `i` can end at `s`, each with the states it can answer. -/
inductive Ending (i : Instr) (s : State) : State → Prop where
  /-- on to the next instruction, only registers written -/
  | registers (rs : List (Reg × Word)) (draws : Nat) :
      Ending i s ((State.writeRegs { s with draws := draws } rs).advance i.size)
  /-- the condition bit computed too -/
  | condition (hi : i.computesC = true) (rs : List (Reg × Word)) (b : Bool) :
      Ending i s (((s.writeRegs rs).setC b).advance i.size)
  /-- the accumulator written too -/
  | accumulator (hi : i.writesAcc = true) (rs : List (Reg × Word)) (acc : Acc) (draws : Nat) :
      Ending i s ((State.writeRegs { s with acc := acc, draws := draws } rs).advance i.size)
  /-- memory, the LOCK bit or both written too -/
  | memory (rs : List (Reg × Word)) (m : Memory) (lock : Bool) (hm : m = s.mem ∨ i.storesMem = true)
      (hl : lock = s.lockBit ∨ i.writesLock = true) (hwf : Memory.wf s.mem = true → Memory.wf m = true) :
      Ending i s ((State.writeRegs { s with mem := m, lockBit := lock } rs).advance i.size)
  /-- a control register written -/
  | control (r : Reg) (n : CtrlNum) (u : State) (hi : i = .mvtc r n) (hu : s.writeCtrl n (s.reg r) = some u) :
      Ending i s (u.advance i.size)
  /-- bits of PSW set -/
  | pswSet (imm : BitVec 8) (hi : i = .setpsw imm) :
      Ending i s (State.advance { s with psw := s.psw ||| selectedPswBits imm } i.size)
  /-- bits of PSW cleared -/
  | pswCleared (imm : BitVec 8) (hi : i = .clrpsw imm) :
      Ending i s (State.advance { s with psw := s.psw &&& ~~~ selectedPswBits imm } i.size)
  /-- control transferred to a word -/
  | transfer (rs : List (Reg × Word)) (a : Word) (ha : wordAligned a = a) : Ending i s ((s.writeRegs rs).jumpTo a)
  /-- the address exception -/
  | addressException : Ending i s s.takeAe
  /-- the common frame of the FPU instructions -/
  | float (d : Reg) (r : FpResult) (draws : Nat) (t : State) (hi : i.isFpu = true)
      (ht : completeFp d r { s with draws := draws } = .next t) : Ending i s t
  /-- TRAP -/
  | trap (n : Fin 16) (hi : i = .trap n) : Ending i s (s.takeEit (.trap n) (s.pc + 4))
  /-- RTE -/
  | rte (hi : i = .rte) : Ending i s s.returnFromEit

-- ## Word-aligned targets

theorem getLsbD_wordAligned (a : Word) (k : Nat) : (wordAligned a).getLsbD k = (decide (2 ≤ k) && a.getLsbD k) := by
  by_cases hk : k < 32
  · interval_cases k <;> simp [wordAligned]
  · rw [BitVec.getLsbD_of_ge _ k (by omega), BitVec.getLsbD_of_ge a k (by omega), Bool.and_false]

theorem toNat_wordAligned (a : Word) : (wordAligned a).toNat = a.toNat / 4 * 4 := by
  have h : wordAligned a = a >>> 2 <<< 2 := by
    apply BitVec.eq_of_getLsbD_eq
    intro k hk
    rw [getLsbD_wordAligned, BitVec.getLsbD_shiftLeft, BitVec.getLsbD_ushiftRight]
    by_cases h2 : k < 2
    · simp [h2]
    · simp [hk, h2, show 2 + (k - 2) = k by omega, show 2 ≤ k by omega]
  rw [h, BitVec.toNat_shiftLeft, BitVec.toNat_ushiftRight, Nat.shiftLeft_eq, Nat.shiftRight_eq_div_pow]
  have := a.isLt
  omega

theorem wordAligned_eq_self_iff (a : Word) : wordAligned a = a ↔ a.toNat % 4 = 0 := by
  rw [← BitVec.toNat_inj, toNat_wordAligned]
  omega

theorem wordAligned_wordAligned (a : Word) : wordAligned (wordAligned a) = wordAligned a := by
  rw [wordAligned_eq_self_iff, toNat_wordAligned]
  omega

/-- A branch target lies on a word: the word of the branch plus a multiple of 4 (R251). -/
theorem wordAligned_branchTarget {n : Nat} (pc : Word) (p : BitVec n) :
    wordAligned (branchTarget pc p) = branchTarget pc p := by
  rw [wordAligned_eq_self_iff, branchTarget, BitVec.toNat_add, toNat_wordAligned, BitVec.toNat_shiftLeft,
    Nat.shiftLeft_eq]
  omega

-- ## Each instruction's ending

section
variable {i : Instr} {s t : State}

theorem ending_of_accessOrAe {w : AccessWidth} {ea : Word} {done : State} (h : accessOrAe w ea s done = .next t)
    (hd : Ending i s done) : Ending i s t := by
  rcases accessOrAe_cases h with ⟨-, rfl⟩ | ⟨-, rfl⟩
  · exact hd
  · exact .addressException

/-- A word stored by an instruction that stores, registers written after it. -/
theorem ending_of_writeWord (a v : Word) (rs : List (Reg × Word)) (hi : i.storesMem = true) :
    Ending i s (((s.writeWord a v).writeRegs rs).advance i.size) :=
  .memory rs (s.writeWord a v).mem s.lockBit (.inr hi) (.inl rfl) (wf_writeWord s a v)

/-- A halfword stored. -/
theorem ending_of_writeHalf (a : Word) (v : Half) (rs : List (Reg × Word)) (hi : i.storesMem = true) :
    Ending i s (((s.writeHalf a v).writeRegs rs).advance i.size) :=
  .memory rs (s.writeHalf a v).mem s.lockBit (.inr hi) (.inl rfl) (wf_writeHalf s a v)

/-- A byte stored. -/
theorem ending_of_writeByte (a : Word) (b : Byte) (hi : i.storesMem = true) :
    Ending i s ((s.writeByte a b).advance i.size) :=
  .memory [] (s.writeByte a b).mem s.lockBit (.inr hi) (.inl rfl) (wf_writeByte s a b)

theorem ending_of_storeWordAt {r : Reg} {ea : Word} (hi : i.storesMem = true)
    (h : storeWordAt r ea i.size s = .next t) : Ending i s t :=
  ending_of_accessOrAe h (ending_of_writeWord ea (s.reg r) [] hi)

theorem ending_of_storeHalfAt {r : Reg} {ea : Word} (hi : i.storesMem = true)
    (h : storeHalfAt r ea i.size s = .next t) : Ending i s t :=
  ending_of_accessOrAe h (ending_of_writeHalf ea ((s.reg r).extractLsb' 0 16) [] hi)

theorem ending_of_storeByteAt {r : Reg} {ea : Word} (hi : i.storesMem = true)
    (h : storeByteAt r ea i.size s = .next t) : Ending i s t :=
  ending_of_accessOrAe h (ending_of_writeByte ea ((s.reg r).extractLsb' 0 8) hi)

/-- BSET and BCLR. -/
theorem ending_of_changeByteAt {ea : Word} {f : Byte → Byte} (hs : i.storesMem = true) (hl : i.writesLock = true)
    (hlong : i.size = 4) (h : changeByteAt ea f s = .next t) : Ending i s t := by
  obtain rfl := Host.Outcome.next.inj h
  rw [← hlong]
  exact .memory [] (s.writeByte ea (f (s.readByte ea))).mem false (.inr hs) (.inr hl) (wf_writeByte s ea _)

/-- What UNLOCK leaves where it stores, as memory and LOCK bit. -/
theorem writeWord_unlocked (ea v : Word) :
    ({ s.writeWord ea v with lockBit := false } : State) =
      { s with mem := (s.writeWord ea v).mem, lockBit := false } := by simp

/-- UNLOCK with the LOCK bit 1 and with the LOCK bit 0. -/
theorem ending_of_execUnlock {a b : Reg} (h : execUnlock a b s = .next t) : Ending (.unlock a b) s t := by
  unfold execUnlock at h
  dsimp only at h
  rw [writeWord_unlocked] at h
  split at h
  · exact ending_of_accessOrAe h (.memory [] _ false (.inr rfl) (.inr rfl)
      (wf_writeWord s (s.eaIndirect b) (s.reg a)))
  · obtain rfl := Host.Outcome.next.inj h
    exact .memory [] s.mem false (.inl rfl) (.inr rfl) id

theorem ending_of_branchIf {w : Nat} {taken : Bool} {p : BitVec w}
    (h : branchIf taken p i.size s = .next t) : Ending i s t := by
  rcases branchIf_cases h with ⟨-, rfl⟩ | ⟨-, rfl⟩
  · exact .transfer [] _ (wordAligned_branchTarget s.pc p)
  · exact .registers [] s.draws

theorem ending_of_branchAndLink {a : Word} (ha : wordAligned a = a)
    (h : branchAndLink a s = .next t) : Ending i s t := by
  rw [branchAndLink_cases h]
  exact .transfer [(linkReg, linkAddress s.pc)] a ha

end

/-- Every next state an instruction answers is one of its endings. -/
theorem exec_ending {i : Instr} {s t : State} (h : exec i s = .next t) : Ending i s t := by
  cases i
  case add d r | add3 d r _ | addi d _ | neg d r | sub d r | and d r | and3 d r _ | or d r | or3 d r _ | xor d r |
      xor3 d r _ | not d r | sll d r | sll3 d r _ | slli d _ | sra d r | sra3 d r _ | srai d _ | srl d r |
      srl3 d r _ | srli d _ | ld24 d _ | ldi8 d _ | ldi16 d _ | seth d _ | mv d r | mvfachi d | mvfaclo d |
      mvfacmi d =>
    obtain rfl := Host.Outcome.next.inj h
    exact .registers [(d, _)] s.draws
  case ld d _ | ldDisp d _ _ | ldb d _ | ldbDisp d _ _ | ldub d _ | ldubDisp d _ _ | ldh d _ | ldhDisp d _ _ |
      lduh d _ | lduhDisp d _ _ =>
    exact ending_of_accessOrAe h (.registers [(d, _)] s.draws)
  case ldPostInc d b =>
    by_cases hdb : d = b
    · simp [exec, execLdPostInc, hdb] at h
    · exact ending_of_accessOrAe ((if_neg hdb).symm.trans h) (.registers [(d, _), (b, _)] s.draws)
  case mvfc d n =>
    obtain ⟨v, -, rfl⟩ := execMvfc_cases h
    exact .registers [(d, v)] s.draws
  case div d r | rem d r =>
    by_cases h0 : s.reg r = 0
    · obtain rfl := Host.Outcome.next.inj ((if_pos h0).symm.trans h)
      exact .registers [] s.draws
    · replace h := (if_neg h0).symm.trans h
      by_cases hov : divisionOverflows (s.reg d) (s.reg r) = true
      · obtain rfl := Host.Outcome.next.inj ((if_pos hov).symm.trans h)
        exact .registers [(d, _)] (s.draws + 1)
      · obtain rfl := Host.Outcome.next.inj ((if_neg hov).symm.trans h)
        exact .registers [(d, _)] s.draws
  case divu d r | remu d r =>
    by_cases h0 : s.reg r = 0
    · obtain rfl := Host.Outcome.next.inj ((if_pos h0).symm.trans h)
      exact .registers [] s.draws
    · obtain rfl := Host.Outcome.next.inj ((if_neg h0).symm.trans h)
      exact .registers [(d, _)] s.draws
  case nop =>
    obtain rfl := Host.Outcome.next.inj h
    exact .registers [] s.draws
  case cmp | cmpi | cmpu | cmpui | btst =>
    obtain rfl := Host.Outcome.next.inj h
    exact .condition rfl [] _
  case addv d _ | addv3 d _ _ | addx d _ | subv d _ | subx d _ =>
    obtain rfl := Host.Outcome.next.inj h
    exact .condition rfl [(d, _)] _
  case mul d r =>
    obtain rfl := Host.Outcome.next.inj h
    exact .accumulator rfl [(d, _)] _ (s.draws + 1)
  case machi | maclo | macwhi | macwlo | mulhi | mullo | mulwhi | mulwlo | mvtachi | mvtaclo | rac | rach =>
    obtain rfl := Host.Outcome.next.inj h
    exact .accumulator rfl [] _ s.draws
  case lock d b =>
    exact ending_of_accessOrAe h (.memory [(d, _)] s.mem true (.inl rfl) (.inr rfl) id)
  case st | stDisp => exact ending_of_storeWordAt rfl h
  case sth | sthDisp => exact ending_of_storeHalfAt rfl h
  case stb | stbDisp => exact ending_of_storeByteAt rfl h
  case sthPostInc a b => exact ending_of_accessOrAe h (ending_of_writeHalf _ _ [(b, _)] rfl)
  case stPreInc a b =>
    by_cases hab : a = b
    · simp [exec, execStPreInc, hab] at h
    · exact ending_of_accessOrAe ((if_neg hab).symm.trans h) (ending_of_writeWord _ _ [(b, _)] rfl)
  case stPreDec a b =>
    by_cases hab : a = b
    · simp [exec, execStPreDec, hab] at h
    · exact ending_of_accessOrAe ((if_neg hab).symm.trans h) (ending_of_writeWord _ _ [(b, _)] rfl)
  case unlock a b => exact ending_of_execUnlock h
  case bset p disp b => exact ending_of_changeByteAt (f := fun v => v ||| bitMask p) rfl rfl rfl h
  case bclr p disp b => exact ending_of_changeByteAt (f := fun v => v &&& ~~~ bitMask p) rfl rfl rfl h
  case mvtc r n =>
    obtain ⟨u, hu, rfl⟩ := execMvtc_cases h
    exact .control r n u rfl hu
  case setpsw imm =>
    obtain rfl := Host.Outcome.next.inj h
    exact .pswSet imm rfl
  case clrpsw imm =>
    obtain rfl := Host.Outcome.next.inj h
    exact .pswCleared imm rfl
  case bc8 | bc24 | bnc8 | bnc24 | beq | bne | beqz | bnez | bgez | bgtz | blez | bltz => exact ending_of_branchIf h
  case bra8 p | bra24 p =>
    obtain rfl := Host.Outcome.next.inj h
    exact .transfer [] _ (wordAligned_branchTarget s.pc p)
  case jmp r =>
    obtain rfl := Host.Outcome.next.inj h
    exact .transfer [] _ (wordAligned_wordAligned (s.reg r))
  case bl8 p | bl24 p => exact ending_of_branchAndLink (wordAligned_branchTarget s.pc p) h
  case jl r => exact ending_of_branchAndLink (wordAligned_wordAligned (s.reg r)) h
  case fadd d _ _ | fsub d _ _ | fmul d _ _ | fdiv d _ _ | fmadd d _ _ | fmsub d _ _ | itof d _ | utof d _ |
      ftoi d _ | ftos d _ =>
    exact .float d _ s.draws t rfl h
  case fcmp d _ _ | fcmpe d _ _ => exact .float d _ (s.draws + 1) t rfl h
  case trap n =>
    obtain rfl := Host.Outcome.next.inj h
    exact .trap n rfl
  case rte =>
    obtain ⟨-, -, rfl⟩ := execRte_cases h
    exact .rte rfl

end Sys2Proof.Machine
end

section
/-! PROOFS of the statements on every instruction, part 2: legal states (10_state.md R25, R32, R38, R40), the writers of
the condition bit (R28) and of the special state, the lower slot (R27); each by the endings of part 1. -/

namespace Sys2Proof.Machine

-- ## Bits where nothing is placed

/-- The bits of PSW where nothing is placed (R32). -/
def pswReserved : Word := 0xFFFF3E3E#32

/-- The bits of FPSR where nothing is placed, and FS (R40). -/
def fpsrReserved : Word := 0x83FF8200#32

section
variable {v w m : Word}

theorem or_and_eq_zero (hv : v &&& m = 0) (hw : w &&& m = 0) : (v ||| w) &&& m = 0 := by
  rw [BitVec.and_or_distrib_right, hv, hw]; rfl

theorem and_and_eq_zero_left (hv : v &&& m = 0) : (v &&& w) &&& m = 0 := by
  rw [BitVec.and_assoc, BitVec.and_comm w m, ← BitVec.and_assoc, hv]; exact BitVec.zero_and

theorem and_and_eq_zero_right (hw : w &&& m = 0) : (v &&& w) &&& m = 0 := by
  rw [BitVec.and_assoc, hw]; exact BitVec.and_zero
end

theorem putBit_zero_reserved {psw : Word} (b : Bool) (h : psw &&& pswReserved = 0) :
    putBit psw 0 b &&& pswReserved = 0 := by
  unfold putBit
  split
  · exact or_and_eq_zero h (by decide)
  · exact and_and_eq_zero_left h

theorem pswAtEntry_reserved (k : EitKind) (psw : Word) : pswAtEntry k psw &&& pswReserved = 0 := by
  apply BitVec.eq_of_getLsbD_eq
  intro j hj
  rw [BitVec.getLsbD_and, getLsbD_pswAtEntry]
  interval_cases j <;> simp [pswReserved]

theorem pswAfterRte_reserved (psw : Word) (b : BitVec 3) : pswAfterRte psw b &&& pswReserved = 0 := by
  apply BitVec.eq_of_getLsbD_eq
  intro j hj
  rw [BitVec.getLsbD_and, getLsbD_pswAfterRte]
  interval_cases j <;> simp [pswReserved]

theorem fpsrWritten_reserved (old v : Word) : fpsrWritten old v &&& fpsrReserved = 0 :=
  or_and_eq_zero (and_and_eq_zero_right (by decide)) (and_and_eq_zero_right (by decide))

theorem causeBits_reserved (x : FpExceptions) : x.causeBits &&& fpsrReserved = 0 := by
  apply BitVec.eq_of_getLsbD_eq
  intro j hj
  rw [BitVec.getLsbD_and, getLsbD_causeBits]
  interval_cases j <;> simp [fpsrReserved]

theorem flagBits_reserved (x : FpExceptions) : x.flagBits &&& fpsrReserved = 0 := by
  apply BitVec.eq_of_getLsbD_eq
  intro j hj
  rw [BitVec.getLsbD_and, getLsbD_flagBits]
  interval_cases j <;> simp [fpsrReserved]

theorem fpsrWithCauses_reserved {fpsr : Word} (x : FpExceptions) (h : fpsr &&& fpsrReserved = 0) :
    fpsrWithCauses fpsr x &&& fpsrReserved = 0 :=
  or_and_eq_zero (and_and_eq_zero_left h) (causeBits_reserved x)

-- ## Even addresses

theorem and_bpcMask_even (v : Word) : (v &&& bpcMask).getLsbD 0 = false := by
  rw [getLsbD_bpcMask]; rfl

theorem even_of_wordAligned {a : Word} (h : wordAligned a = a) : a.getLsbD 0 = false := by
  rw [← h, getLsbD_wordAligned]; rfl

theorem getLsbD_one_of_wordAligned {a : Word} (h : wordAligned a = a) : a.getLsbD 1 = false := by
  rw [← h, getLsbD_wordAligned]; rfl

/-- An entry address lies on a word (R425, D3). -/
theorem wordAligned_eitEntryAddress (v : EitVectors) (k : EitKind) :
    wordAligned (eitEntryAddress v k) = eitEntryAddress v k := by
  rw [wordAligned_eq_self_iff]
  unfold eitEntryAddress
  rw [BitVec.toNat_append]
  simp [Nat.shiftLeft_eq]

theorem even_add_four {pc : Word} (h : pc.getLsbD 0 = false) : (pc + 4).getLsbD 0 = false := by
  rw [getLsbD_zero_eq, decide_eq_false_iff_not] at h ⊢
  rw [BitVec.toNat_add]
  simp
  omega

theorem even_add_size {pc : Word} (i : Instr) (h : pc.getLsbD 0 = false) : (pc + i.size).getLsbD 0 = false := by
  rw [getLsbD_zero_eq, decide_eq_false_iff_not] at h ⊢
  unfold Instr.size
  split <;> rw [BitVec.toNat_add] <;> simp <;> omega

-- ## Legal states

/-- A state that differs from a legal one outside PSW, BPC, FPSR and memory, at an even program counter. -/
theorem State.Legal.of_eq {s t : State} (hs : s.Legal) (hpc : t.pc.getLsbD 0 = false) (hpsw : t.psw = s.psw)
    (hbpc : t.bpc = s.bpc) (hfpsr : t.fpsr = s.fpsr) (hmem : t.mem = s.mem) : t.Legal where
  pc_even := hpc
  psw_reserved := hpsw ▸ hs.psw_reserved
  bpc_even := hbpc ▸ hs.bpc_even
  fpsr_reserved := hfpsr ▸ hs.fpsr_reserved
  mem_wf := hmem ▸ hs.mem_wf

theorem State.Legal.advance {s : State} (hs : s.Legal) (i : Instr) : (s.advance i.size).Legal :=
  hs.of_eq (even_add_size i hs.pc_even) rfl rfl rfl rfl

theorem State.Legal.writeRegs {s : State} (hs : s.Legal) (rs : List (Reg × Word)) : (s.writeRegs rs).Legal :=
  hs.of_eq (by simpa using hs.pc_even) (by simp) (by simp) (by simp) (by simp)

theorem State.Legal.withPsw {s : State} (hs : s.Legal) {v : Word} (b : Bool) (hv : v &&& pswReserved = 0) :
    State.Legal { s with psw := v, bpswOpen := b } := { hs with psw_reserved := hv }

theorem State.Legal.withFpsr {s : State} (hs : s.Legal) {v : Word} (hv : v &&& fpsrReserved = 0) :
    State.Legal { s with fpsr := v } := { hs with fpsr_reserved := hv }

theorem State.Legal.takeEit {s : State} (hs : s.Legal) (k : EitKind) (b : Word) : (s.takeEit k b).Legal where
  pc_even := even_of_wordAligned (wordAligned_eitEntryAddress s.vectors k)
  psw_reserved := pswAtEntry_reserved k s.psw
  bpc_even := and_bpcMask_even b
  fpsr_reserved := hs.fpsr_reserved
  mem_wf := hs.mem_wf

theorem State.Legal.returnFromEit {s : State} (hs : s.Legal) : s.returnFromEit.Legal where
  pc_even := even_of_wordAligned (wordAligned_wordAligned s.bpc)
  psw_reserved := pswAfterRte_reserved _ _
  bpc_even := and_bpcMask_even _
  fpsr_reserved := hs.fpsr_reserved
  mem_wf := hs.mem_wf

theorem State.Legal.writeCtrl {s u : State} (hs : s.Legal) {n : CtrlNum} {v : Word} (hu : s.writeCtrl n v = some u) :
    u.Legal := by
  rcases writeCtrl_cases hu with ⟨-, rfl⟩ | ⟨-, rfl⟩ | ⟨-, rfl⟩ | ⟨-, rfl⟩ | ⟨-, rfl⟩ | ⟨-, rfl⟩
  · exact hs.withPsw false (and_and_eq_zero_right (by decide))
  · exact hs
  · exact hs.of_eq hs.pc_even rfl rfl rfl rfl
  · exact hs.of_eq hs.pc_even rfl rfl rfl rfl
  · exact { hs with bpc_even := and_bpcMask_even v }
  · exact hs.withFpsr (fpsrWritten_reserved s.fpsr v)

/-- An FPU instruction has 32 bits (R360). -/
theorem size_of_isFpu {i : Instr} (hi : i.isFpu = true) : i.size = 4 := by
  revert hi
  fun_cases Instr.isFpu i
  case case13 => simp
  all_goals exact fun _ => rfl

theorem State.Legal.completeFp {s t : State} (hs : s.Legal) {d : Reg} {r : FpResult} {i : Instr} (hi : i.isFpu = true)
    (ht : completeFp d r s = .next t) : t.Legal := by
  have hcauses := fpsrWithCauses_reserved r.raised hs.fpsr_reserved
  rcases completeFp_cases ht with ⟨v, -, -, rfl⟩ | ⟨-, rfl⟩
  · rw [← size_of_isFpu hi]
    exact ((hs.withFpsr (or_and_eq_zero hcauses (flagBits_reserved r.raised))).writeRegs [(d, v)]).advance i
  · exact (hs.withFpsr hcauses).takeEit .fpe _

/-- Every ending keeps the legal states. -/
theorem State.Legal.ending {i : Instr} {s t : State} (hs : s.Legal) (h : Ending i s t) : t.Legal := by
  cases h with
  | registers rs draws =>
    have hd : State.Legal { s with draws := draws } := hs.of_eq hs.pc_even rfl rfl rfl rfl
    exact (hd.writeRegs rs).advance i
  | condition _ rs b =>
    have hr := hs.writeRegs rs
    exact (hr.withPsw _ (putBit_zero_reserved b hr.psw_reserved)).advance i
  | accumulator _ rs acc draws =>
    have ha : State.Legal { s with acc := acc, draws := draws } := hs.of_eq hs.pc_even rfl rfl rfl rfl
    exact (ha.writeRegs rs).advance i
  | memory rs m lock _ _ hwf =>
    have hm : State.Legal { s with mem := m, lockBit := lock } := { hs with mem_wf := hwf hs.mem_wf }
    exact (hm.writeRegs rs).advance i
  | control r n u _ hu => exact (hs.writeCtrl hu).advance i
  | pswSet imm _ =>
    exact (hs.withPsw s.bpswOpen (or_and_eq_zero hs.psw_reserved (and_and_eq_zero_right (by decide)))).advance i
  | pswCleared imm _ => exact (hs.withPsw s.bpswOpen (and_and_eq_zero_left hs.psw_reserved)).advance i
  | transfer rs a ha => exact (hs.writeRegs rs).of_eq (even_of_wordAligned ha) rfl rfl rfl rfl
  | addressException => exact hs.takeEit .ae s.pc
  | float d r draws t hi ht =>
    exact State.Legal.completeFp (s := { s with draws := draws }) (hs.of_eq hs.pc_even rfl rfl rfl rfl) hi ht
  | trap n _ => exact hs.takeEit (.trap n) _
  | rte _ => exact hs.returnFromEit

/-- Past the boundary a legal state is legal. -/
theorem State.Legal.pastBoundary {s : State} (hs : s.Legal) : s.pastBoundary.Legal :=
  hs.of_eq hs.pc_even rfl rfl rfl rfl

theorem legal_step {s t : State} (hs : s.Legal) (h : step s = .next t) : t.Legal := by
  rcases step_cases h with ⟨-, rfl⟩ | ⟨-, i, -, hexec⟩
  · exact hs.pastBoundary.takeEit .ei _
  · exact hs.pastBoundary.ending (exec_ending hexec)

-- ## Writers of the condition bit (R28)

theorem exists_of_computesC {i : Instr} (h : i.computesC = true) :
    (∃ d r, i = .addv d r ∨ i = .addx d r ∨ i = .subv d r ∨ i = .subx d r ∨ i = .cmp d r ∨ i = .cmpu d r) ∨
    (∃ d r imm, i = .addv3 d r imm ∨ i = .cmpi r imm ∨ i = .cmpui r imm) ∨ (∃ p r, i = .btst p r) := by
  revert h
  fun_cases Instr.computesC i <;> simp

theorem c_writeCtrl {s u : State} {n : CtrlNum} {v : Word} (hn : n ≠ 0) (hu : s.writeCtrl n v = some u) :
    u.c = s.c := by
  rcases writeCtrl_cases hu with ⟨h0, -⟩ | ⟨-, rfl⟩ | ⟨-, rfl⟩ | ⟨-, rfl⟩ | ⟨-, rfl⟩ | ⟨-, rfl⟩
  · exact absurd h0 hn
  all_goals rfl

/-- An FPU instruction that changes the condition bit took the FPE. -/
theorem entersEit_of_completeFp {d : Reg} {r : FpResult} {s t : State} (n : Nat) (hpc : s.pc.getLsbD 0 = false)
    (ht : completeFp d r { s with draws := n } = .next t) (hc : t.c ≠ s.c) : EntersEit .fpe (s.pc + 4) s t := by
  rcases completeFp_cases ht with ⟨v, -, -, rfl⟩ | ⟨-, rfl⟩
  · rw [c_advance, c_setReg] at hc
    exact absurd rfl hc
  · have he := entersEit_takeEit { s with fpsr := fpsrWithCauses s.fpsr r.raised, draws := n } .fpe (s.pc + 4)
      (even_add_four hpc)
    exact { he with }

-- ## Writers of the special state

theorem exists_of_writesAcc {i : Instr} (h : i.writesAcc = true) :
    i = .rac ∨ i = .rach ∨ ∃ a b, i = .mul a b ∨ i = .mulhi a b ∨ i = .mullo a b ∨ i = .mulwhi a b ∨ i = .mulwlo a b ∨
      i = .machi a b ∨ i = .maclo a b ∨ i = .macwhi a b ∨ i = .macwlo a b ∨ i = .mvtachi a ∨ i = .mvtaclo a := by
  revert h
  fun_cases Instr.writesAcc i <;> simp

theorem exists_of_writesLock {i : Instr} (h : i.writesLock = true) :
    ∃ p disp a b, i = .lock a b ∨ i = .unlock a b ∨ i = .bset p disp b ∨ i = .bclr p disp b := by
  revert h
  fun_cases Instr.writesLock i <;> simp

theorem exists_of_storesMem {i : Instr} (h : i.storesMem = true) :
    ∃ p disp a b, i = .st a b ∨ i = .stPreInc a b ∨ i = .stPreDec a b ∨ i = .stDisp a disp b ∨ i = .stb a b ∨
      i = .stbDisp a disp b ∨ i = .sth a b ∨ i = .sthPostInc a b ∨ i = .sthDisp a disp b ∨ i = .unlock a b ∨
      i = .bset p disp b ∨ i = .bclr p disp b := by
  revert h
  fun_cases Instr.storesMem i <;> simp

theorem exists_of_isFpu {i : Instr} (h : i.isFpu = true) :
    ∃ d a b, i = .fadd d a b ∨ i = .fsub d a b ∨ i = .fmul d a b ∨ i = .fdiv d a b ∨ i = .fmadd d a b ∨
      i = .fmsub d a b ∨ i = .fcmp d a b ∨ i = .fcmpe d a b ∨ i = .itof d a ∨ i = .utof d a ∨ i = .ftoi d a ∨
      i = .ftos d a := by
  revert h
  fun_cases Instr.isFpu i <;> simp

/-- Writing a control register reaches none of the accumulator, the LOCK bit, memory and the environment. -/
theorem writeCtrl_keeps {s u : State} {n : CtrlNum} {v : Word} (hu : s.writeCtrl n v = some u) :
    u.acc = s.acc ∧ u.lockBit = s.lockBit ∧ u.mem = s.mem ∧ u.vectors = s.vectors ∧
      u.intRequests = s.intRequests := by
  rcases writeCtrl_cases hu with ⟨-, rfl⟩ | ⟨-, rfl⟩ | ⟨-, rfl⟩ | ⟨-, rfl⟩ | ⟨-, rfl⟩ | ⟨-, rfl⟩ <;>
    exact ⟨rfl, rfl, rfl, rfl, rfl⟩

/-- Nor does the frame of the FPU instructions (R340). -/
theorem completeFp_keeps {d : Reg} {r : FpResult} {s t : State} (ht : completeFp d r s = .next t) :
    t.acc = s.acc ∧ t.lockBit = s.lockBit ∧ t.mem = s.mem ∧ t.vectors = s.vectors ∧
      t.intRequests = s.intRequests := by
  rcases completeFp_cases ht with ⟨v, -, -, rfl⟩ | ⟨-, rfl⟩ <;> simp

/-- It clears no flag (R345). -/
theorem completeFp_keeps_flags {d : Reg} {r : FpResult} {s t : State} (ht : completeFp d r s = .next t) {k : Nat}
    (h26 : 26 ≤ k) (hk : s.fpsr.getLsbD k = true) : t.fpsr.getLsbD k = true := by
  have hcauses : (fpsrWithCauses s.fpsr r.raised).getLsbD k = true := by
    rw [getLsbD_fpsrWithCauses, if_neg (by omega), hk]
  rcases completeFp_cases ht with ⟨v, -, -, rfl⟩ | ⟨-, rfl⟩
  · rw [advance_fpsr, setReg_fpsr, BitVec.getLsbD_or, hcauses, Bool.true_or]
  · rw [takeEit_fpsr, hcauses]

section
variable {i : Instr} {s t : State}

theorem Ending.vectors_intRequests (h : Ending i s t) : t.vectors = s.vectors ∧ t.intRequests = s.intRequests := by
  cases h with
  | control r n u _ hu =>
    obtain ⟨-, -, -, hvectors, hrequests⟩ := writeCtrl_keeps hu
    exact ⟨hvectors, hrequests⟩
  | float d r draws t _ ht =>
    obtain ⟨-, -, -, hvectors, hrequests⟩ := completeFp_keeps ht
    exact ⟨hvectors, hrequests⟩
  | _ => simp

theorem Ending.acc (h : Ending i s t) : t.acc = s.acc ∨ i.writesAcc = true := by
  cases h with
  | accumulator hi => exact .inr hi
  | control r n u _ hu => exact .inl (writeCtrl_keeps hu).1
  | float d r draws t _ ht => exact .inl (completeFp_keeps ht).1
  | _ => exact .inl (by simp)

theorem Ending.lockBit (h : Ending i s t) : t.lockBit = s.lockBit ∨ i.writesLock = true := by
  cases h with
  | memory rs m lock _ hl _ => simpa using hl
  | control r n u _ hu => exact .inl (writeCtrl_keeps hu).2.1
  | float d r draws t _ ht => exact .inl (completeFp_keeps ht).2.1
  | _ => exact .inl (by simp)

theorem Ending.mem (h : Ending i s t) : t.mem = s.mem ∨ i.storesMem = true := by
  cases h with
  | memory rs m lock hm _ _ => simpa using hm
  | control r n u _ hu => exact .inl (writeCtrl_keeps hu).2.2.1
  | float d r draws t _ ht => exact .inl (completeFp_keeps ht).2.2.1
  | _ => exact .inl (by simp)

theorem Ending.fpsr (h : Ending i s t) :
    t.fpsr = s.fpsr ∨ (∃ r, i = .mvtc r 7) ∨
      (i.isFpu = true ∧ ∀ k, 26 ≤ k → s.fpsr.getLsbD k = true → t.fpsr.getLsbD k = true) := by
  cases h with
  | control r n u hi hu =>
    rcases writeCtrl_cases hu with ⟨-, rfl⟩ | ⟨-, rfl⟩ | ⟨-, rfl⟩ | ⟨-, rfl⟩ | ⟨-, rfl⟩ | ⟨rfl, -⟩
    case inr.inr.inr.inr.inr => exact .inr (.inl ⟨r, hi⟩)
    all_goals exact .inl rfl
  | float d r draws t hi ht => exact .inr (.inr ⟨hi, fun k h26 hk => completeFp_keeps_flags ht h26 hk⟩)
  | _ => exact .inl (by simp)

-- ## The lower slot (R27)

/-- An ending leads to a word, or on to the next instruction. -/
theorem Ending.pc (h : Ending i s t) : wordAligned t.pc = t.pc ∨ t.pc = s.pc + i.size := by
  cases h with
  | transfer rs a ha => exact .inl ha
  | addressException => exact .inl (wordAligned_eitEntryAddress s.vectors .ae)
  | trap n => exact .inl (wordAligned_eitEntryAddress s.vectors (.trap n))
  | rte => exact .inl (wordAligned_wordAligned s.bpc)
  | float d r draws t hi ht =>
    rcases completeFp_cases ht with ⟨v, -, -, rfl⟩ | ⟨-, rfl⟩
    · exact .inr (by simp [size_of_isFpu hi])
    · exact .inl (wordAligned_eitEntryAddress s.vectors .fpe)
  | control r n u _ hu =>
    have hpc : u.pc = s.pc := by
      rcases writeCtrl_cases hu with ⟨-, rfl⟩ | ⟨-, rfl⟩ | ⟨-, rfl⟩ | ⟨-, rfl⟩ | ⟨-, rfl⟩ | ⟨-, rfl⟩ <;> rfl
    exact .inr (by simp [hpc])
  | _ => exact .inr (by simp)
end

/-- What is fetched in the lower halfword has 16 bits (R111). -/
theorem isLong_of_fetchInstr_lower {i : Instr} {s : State} (h1 : s.pc.getLsbD 1 = true) (hi : s.fetchInstr = .ok i) :
    i.isLong = false := by
  rw [State.fetchInstr, slotOf, if_pos h1] at hi
  exact isLong_of_decodeHalves_lower hi

/-- Going on over an instruction leads to the lower halfword only from the upper one, over 16 bits. -/
theorem upper_of_add_size_lower {i : Instr} {pc : Word}
    (hlong : pc.getLsbD 1 = true → i.isLong = false) (h : (pc + i.size).getLsbD 1 = true) :
    pc.getLsbD 1 = false ∧ i.isLong = false := by
  rw [getLsbD_one_eq, decide_eq_true_eq, BitVec.toNat_add] at h
  rw [getLsbD_one_eq] at hlong ⊢
  rw [decide_eq_true_eq] at hlong
  rw [decide_eq_false_iff_not]
  unfold Instr.size at h
  cases hl : i.isLong
  · simp [hl] at h ⊢; omega
  · simp [hl] at h hlong ⊢; omega

end Sys2Proof.Machine

namespace Sys2Proof.Proofs

open Sys2Proof.Machine

/-- Settles O59: an interrupt's entry keeps the legal states, and so does every ending of an instruction. -/
theorem legalKept : Obligations.LegalKept := fun _ _ hs h => legal_step hs h

/-- Settles O56, ending by ending. -/
theorem conditionBitWriters : Obligations.ConditionBitWriters := by
  intro i s t hpc hexec hc
  cases exec_ending hexec with
  | condition hi => exact (exists_of_computesC hi).imp_right (Or.imp_right .inl)
  | control r n u hi hu =>
    obtain rfl : n = 0 := of_not_not fun hn => hc ((c_advance u i.size).trans (c_writeCtrl hn hu))
    simp [hi]
  | pswSet imm hi => simp [hi]
  | pswCleared imm hi => simp [hi]
  | addressException => simp [State.takeAe, entersEit_takeEit s .ae s.pc hpc]
  | float d r draws t _ ht =>
    exact .inr (.inr (.inr (.inr (.inr (.inr (.inr (.inr (entersEit_of_completeFp draws hpc ht hc))))))))
  | trap n hi => simp [hi]
  | rte hi => simp [hi]
  | registers rs draws => exact absurd (by simp [State.c]) hc
  | accumulator _ rs acc draws => exact absurd (by simp [State.c]) hc
  | memory rs m lock => exact absurd (by simp [State.c]) hc
  | transfer rs a => exact absurd (by simp [State.c]) hc

/-- Settles O57, part of the state by part of the state. -/
theorem specialStateWriters : Obligations.SpecialStateWriters := by
  intro i s t hexec
  have hend := exec_ending hexec
  refine ⟨fun hne => ?fpsr, fun hne => ?acc, fun hne => ?lock, fun hne => ?mem, hend.vectors_intRequests⟩
  case fpsr =>
    exact (hend.fpsr.resolve_left hne).imp_right fun ⟨hi, hflags⟩ =>
      ⟨exists_of_isFpu hi, fun k h26 _ hk => hflags k h26 hk⟩
  case acc => exact exists_of_writesAcc (hend.acc.resolve_left hne)
  case lock => exact exists_of_writesLock (hend.lockBit.resolve_left hne)
  case mem => exact exists_of_storesMem (hend.mem.resolve_left hne)

/-- Settles O58: an ending that leads to the lower halfword goes on over a 16-bit instruction. -/
theorem lowerSlotOnlySequentially : Obligations.LowerSlotOnlySequentially := by
  intro s t _ hstep h1
  rcases step_cases hstep with ⟨-, rfl⟩ | ⟨-, i, hi, hexec⟩
  · rw [takeInterrupt_pc, getLsbD_one_of_wordAligned (wordAligned_eitEntryAddress _ _)] at h1
    cases h1
  · rcases (exec_ending hexec).pc with hword | hnext
    · rw [getLsbD_one_of_wordAligned hword] at h1
      cases h1
    · rw [hnext] at h1
      obtain ⟨hupper, hshort⟩ := upper_of_add_size_lower (fun hl => isLong_of_fetchInstr_lower hl hi) h1
      exact ⟨hupper, by simpa [Instr.size, hshort] using hnext, i, hi, hshort⟩

end Sys2Proof.Proofs
end

section
/-! PROOFS of the family 60_exceptions.md and 44_eit_instructions.md: the step at an instruction boundary (R430), the
masked interrupt input, EIT entry and return (R420, R282), the address exception (R410). -/

namespace Sys2Proof.Machine

-- ## The environment's requests have no effect on an instruction

/-- The state with other coming requests. -/
def State.withRequests (s : State) (q : List Bool) : State := { s with intRequests := q }

/-- A result with the next state changed. -/
def onNext (f : State → State) : Result → Result
  | .next t => .next (f t)
  | .fault r => .fault r
  | .refused r => .refused r

theorem ite_eq_onNext {f : State → State} {p : Prop} [Decidable p] {a b a' b' : Result} (ha : a = onNext f a')
    (hb : b = onNext f b') : (if p then a else b) = onNext f (if p then a' else b') := by
  split <;> assumption

section
variable (s : State) (q : List Bool)

theorem setStackPointer_withRequests (v : Word) :
    (s.withRequests q).setStackPointer v = (s.setStackPointer v).withRequests q := by
  unfold State.setStackPointer
  rw [show (s.withRequests q).sm = s.sm from rfl]
  split <;> rfl

theorem setReg_withRequests (r : Reg) (v : Word) :
    (s.withRequests q).setReg r v = (s.setReg r v).withRequests q := by
  unfold State.setReg
  split
  · rfl
  · exact setStackPointer_withRequests s q v

theorem accessOrAe_withRequests (w : AccessWidth) (ea : Word) (done : State) :
    accessOrAe w ea (s.withRequests q) (done.withRequests q) =
      onNext (·.withRequests q) (accessOrAe w ea s done) := by
  unfold accessOrAe
  split <;> rfl

/-- A data access that leaves `u` with a register written. -/
theorem accessOrAe_setReg_withRequests (w : AccessWidth) (ea : Word) {u u' : State} (hu : u' = u.withRequests q)
    (r : Reg) (v len : Word) :
    accessOrAe w ea (s.withRequests q) ((u'.setReg r v).advance len) =
      onNext (·.withRequests q) (accessOrAe w ea s ((u.setReg r v).advance len)) := by
  rw [hu, setReg_withRequests]
  exact accessOrAe_withRequests s q w ea ((u.setReg r v).advance len)

theorem writeByte_withRequests (a : Word) (b : Byte) :
    (s.withRequests q).writeByte a b = (s.writeByte a b).withRequests q := rfl

theorem writeHalf_withRequests (a : Word) (v : Half) :
    (s.withRequests q).writeHalf a v = (s.writeHalf a v).withRequests q := by
  simp only [State.writeHalf, writeByte_withRequests]

theorem writeWord_withRequests (a v : Word) :
    (s.withRequests q).writeWord a v = (s.writeWord a v).withRequests q := by
  simp only [State.writeWord, writeByte_withRequests]

/-- A data access that leaves `u`. -/
theorem accessOrAe_advance_withRequests (w : AccessWidth) (ea : Word) {u u' : State} (hu : u' = u.withRequests q)
    (len : Word) :
    accessOrAe w ea (s.withRequests q) (u'.advance len) =
      onNext (·.withRequests q) (accessOrAe w ea s (u.advance len)) := by
  rw [hu]
  exact accessOrAe_withRequests s q w ea (u.advance len)

theorem branchIf_withRequests {n : Nat} (taken : Bool) (p : BitVec n) (len : Word) :
    branchIf taken p len (s.withRequests q) = onNext (·.withRequests q) (branchIf taken p len s) := by
  cases taken <;> rfl

theorem branchAndLink_withRequests (a : Word) :
    branchAndLink a (s.withRequests q) = onNext (·.withRequests q) (branchAndLink a s) := by
  unfold branchAndLink
  rw [setReg_withRequests]
  rfl

theorem completeFp_withRequests (d : Reg) (r : FpResult) :
    completeFp d r (s.withRequests q) = onNext (·.withRequests q) (completeFp d r s) := by
  unfold completeFp
  rw [show (s.withRequests q).fpsr = s.fpsr from rfl]
  dsimp only
  split
  · exact congrArg (Host.Outcome.next <| State.advance · 4)
      (setReg_withRequests { s with fpsr := fpsrWithCauses s.fpsr r.raised ||| r.raised.flagBits } q d _)
  · rfl

theorem execMvfc_withRequests (d : Reg) (n : CtrlNum) :
    execMvfc d n (s.withRequests q) = onNext (·.withRequests q) (execMvfc d n s) := by
  unfold execMvfc
  rw [show (s.withRequests q).readCtrl n = s.readCtrl n from rfl]
  split
  · exact congrArg (Host.Outcome.next <| State.advance · 2) (setReg_withRequests s q d _)
  · rfl

theorem writeCtrl_withRequests (n : CtrlNum) (v : Word) :
    (s.withRequests q).writeCtrl n v = (s.writeCtrl n v).map (·.withRequests q) := by
  simp only [State.writeCtrl, apply_ite (Option.map _)]
  rfl

theorem execMvtc_withRequests (r : Reg) (n : CtrlNum) :
    execMvtc r n (s.withRequests q) = onNext (·.withRequests q) (execMvtc r n s) := by
  unfold execMvtc
  rw [writeCtrl_withRequests, show (s.withRequests q).reg r = s.reg r from rfl]
  cases s.writeCtrl n (s.reg r) <;> rfl

theorem resultLong_withRequests (d : Reg) (v : Word) :
    resultLong d v (s.withRequests q) = onNext (·.withRequests q) (resultLong d v s) := by
  unfold resultLong
  rw [setReg_withRequests]
  rfl
end

/-- An instruction reads no request and writes none. -/
theorem exec_withRequests (i : Instr) (s : State) (q : List Bool) :
    exec i (s.withRequests q) = onNext (·.withRequests q) (exec i s) := by
  cases i
  case add d r | add3 d r _ | addi d _ | neg d r | sub d r | and d r | and3 d r _ | or d r | or3 d r _ | xor d r |
      xor3 d r _ | not d r | sll d r | sll3 d r _ | slli d _ | sra d r | sra3 d r _ | srai d _ | srl d r |
      srl3 d r _ | srli d _ | ld24 d _ | ldi8 d _ | ldi16 d _ | seth d _ | mv d r | mvfachi d | mvfaclo d |
      mvfacmi d =>
    exact congrArg (Host.Outcome.next <| State.advance · _) (setReg_withRequests s q d _)
  case addv d _ | addv3 d _ _ | addx d _ | subv d _ | subx d _ =>
    exact congrArg (fun u => Host.Outcome.next (State.advance (State.setC u _) _)) (setReg_withRequests s q d _)
  case mul d r =>
    exact congrArg (Host.Outcome.next <| State.advance · 2)
      (setReg_withRequests { s with acc := Config.accAfterMul s.draws, draws := s.draws + 1 } q d _)
  case div d r | rem d r =>
    exact ite_eq_onNext rfl (ite_eq_onNext (resultLong_withRequests { s with draws := s.draws + 1 } q d _)
      (resultLong_withRequests s q d _))
  case divu d r | remu d r => exact ite_eq_onNext rfl (resultLong_withRequests s q d _)
  case ld d _ | ldDisp d _ _ | ldb d _ | ldbDisp d _ _ | ldub d _ | ldubDisp d _ _ | ldh d _ | ldhDisp d _ _ |
      lduh d _ | lduhDisp d _ _ =>
    exact accessOrAe_setReg_withRequests s q _ _ (u := s) rfl d _ _
  case ldPostInc d b =>
    exact ite_eq_onNext rfl (accessOrAe_setReg_withRequests s q .word _ (setReg_withRequests s q d _) b _ _)
  case lock d b => exact accessOrAe_setReg_withRequests s q .word _ (u := { s with lockBit := true }) rfl d _ _
  case mvfc d n => exact execMvfc_withRequests s q d n
  case mvtc r n => exact execMvtc_withRequests s q r n
  case cmp | cmpi | cmpu | cmpui | btst | nop | machi | maclo | macwhi | macwlo | mulhi | mullo | mulwhi | mulwlo |
      mvtachi | mvtaclo | rac | rach | setpsw | clrpsw | bra8 | bra24 | jmp | trap | bset | bclr => rfl
  case st | stDisp => exact accessOrAe_advance_withRequests s q .word _ (writeWord_withRequests s q _ _) _
  case sth | sthDisp => exact accessOrAe_advance_withRequests s q .half _ (writeHalf_withRequests s q _ _) _
  case stb | stbDisp => exact accessOrAe_advance_withRequests s q .byte _ (writeByte_withRequests s q _ _) _
  case stPreInc a b | stPreDec a b =>
    exact ite_eq_onNext rfl (accessOrAe_setReg_withRequests s q .word _ (writeWord_withRequests s q _ _) b _ _)
  case sthPostInc a b =>
    exact accessOrAe_setReg_withRequests s q .half _ (writeHalf_withRequests s q _ _) b _ _
  case unlock a b =>
    refine ite_eq_onNext (accessOrAe_advance_withRequests s q .word _
      (congrArg (fun t : State => { t with lockBit := false }) (writeWord_withRequests s q _ _)) _) rfl
  case bc8 | bc24 | bnc8 | bnc24 | beq | bne | beqz | bnez | bgez | bgtz | blez | bltz =>
    exact branchIf_withRequests s q _ _ _
  case bl8 | bl24 | jl => exact branchAndLink_withRequests s q _
  case fadd | fsub | fmul | fdiv | fmadd | fmsub | itof | utof | ftoi | ftos => exact completeFp_withRequests s q _ _
  case fcmp | fcmpe => exact completeFp_withRequests { s with draws := s.draws + 1 } q _ _
  case rte => exact ite_eq_onNext rfl rfl

-- ## The instruction boundary (R430)

theorem acceptsInterrupt_of_ie_false {s : State} (h : s.ie = false) : s.acceptsInterrupt = false := by
  simp [State.acceptsInterrupt, h]

/-- In the lower halfword no interrupt is accepted (D33). -/
theorem acceptsInterrupt_of_lower {s : State} (h : s.pc.getLsbD 1 = true) : s.acceptsInterrupt = false := by
  have hne : s.pc ≠ wordAligned s.pc := fun he => by
    rw [getLsbD_one_of_wordAligned he.symm] at h
    cases h
  simp [State.acceptsInterrupt, hne]

theorem acceptsInterrupt_iff (s : State) :
    s.acceptsInterrupt = true ↔
      s.intRequests.head? = some true ∧ s.ie = true ∧ s.pc.getLsbD 0 = false ∧ s.pc.getLsbD 1 = false := by
  have hreq : s.intRequest = true ↔ s.intRequests.head? = some true := by
    rw [State.intRequest]
    cases s.intRequests <;> simp
  have hword : (s.pc == wordAligned s.pc) = true ↔ s.pc.getLsbD 0 = false ∧ s.pc.getLsbD 1 = false := by
    rw [beq_iff_eq, eq_comm, wordAligned_eq_self_iff, getLsbD_zero_eq, getLsbD_one_eq, decide_eq_false_iff_not,
      decide_eq_false_iff_not]
    omega
  rw [State.acceptsInterrupt, Bool.and_eq_true, Bool.and_eq_true, hreq, hword, and_assoc]

/-- Without an accepted interrupt a step runs the instruction it fetches. -/
theorem step_of_fetchInstr {s : State} {i : Instr} (ha : s.acceptsInterrupt = false) (hi : s.fetchInstr = .ok i) :
    step s = exec i s.pastBoundary := by
  simp [step, ha, hi]

/-- Without an accepted interrupt bytes that are no instruction stop the machine (R412). -/
theorem step_of_fetchInstr_error {s : State} (ha : s.acceptsInterrupt = false)
    (hi : ∀ i, s.fetchInstr ≠ .ok i) : step s = .fault .reservedInstruction := by
  rw [step, ha, if_neg Bool.false_ne_true]
  cases hf : s.fetchInstr with
  | ok i => exact absurd hf (hi i)
  | error _ => rfl

/-- An accepted interrupt is taken before the instruction. -/
theorem step_of_acceptsInterrupt {s : State} (ha : s.acceptsInterrupt = true) :
    step s = .next s.pastBoundary.takeInterrupt := by
  simp [step, ha]

theorem slotOf_upper {pc : Word} (h : pc.getLsbD 1 = false) : slotOf pc = .upper := by simp only [slotOf, h]; rfl
theorem slotOf_lower {pc : Word} (h : pc.getLsbD 1 = true) : slotOf pc = .lower := by simp only [slotOf, h]; rfl

/-- The first halfword fetched decides in the lower slot (R113). -/
theorem fetchInstr_lower {s : State} (h : s.pc.getLsbD 1 = true) :
    s.fetchInstr = decodeHalves .lower (s.readHalf s.pc :: [s.readByte (s.pc + 2) ++ s.readByte (s.pc + 3)]) := by
  rw [State.fetchInstr, slotOf_lower h]
  rfl

end Sys2Proof.Machine

namespace Sys2Proof.Proofs

open Sys2Proof.Machine

/-- Settles O9: neither the fetch nor the instruction reads the requests. -/
theorem maskedInterruptIgnored : Obligations.MaskedInterruptIgnored := by
  intro s t requests hie hstep
  obtain ⟨-, i, hi, hexec⟩ := (step_cases hstep).resolve_left fun ⟨ha, _⟩ => by
    rw [acceptsInterrupt_of_ie_false hie] at ha
    cases ha
  calc step (s.withRequests requests)
      = exec i (s.pastBoundary.withRequests requests.tail) :=
        step_of_fetchInstr (acceptsInterrupt_of_ie_false hie) hi
    _ = .next (t.withRequests requests.tail) := by rw [exec_withRequests, hexec]; rfl

/-- Settles O7: what no request, IE = 0 and the lower slot have in common is that no interrupt is accepted. -/
theorem stepRunsDecoded : Obligations.StepRunsDecoded := by
  intro s i hmasked hdec
  have ha : s.acceptsInterrupt = false := by
    rw [← Bool.not_eq_true, acceptsInterrupt_iff]
    rintro ⟨hreq, hie, h0, h1⟩
    rw [hmasked hreq hie h0] at h1
    cases h1
  exact step_of_fetchInstr ha hdec

/-- Settles O5: what is fetched begins with its own encoding (`encodeDecode`). -/
theorem reservedEncodingStops : Obligations.ReservedEncodingStops := by
  intro s ha
  refine ⟨fun h1 hnone => step_of_fetchInstr_error ha fun i hi => ?upper,
    fun h1 hnone hnop => step_of_fetchInstr_error ha fun i hi => ?lower⟩
  case upper =>
    rw [State.fetchInstr, slotOf_upper h1] at hi
    refine hnone i ?_
    rw [encodeBytes_of_decode_upper hi]
    cases i.isLong
    · exact ⟨_, rfl⟩
    · exact ⟨[], rfl⟩
  case lower =>
    have hshort := isLong_of_fetchInstr_lower h1 hi
    rw [State.fetchInstr, slotOf_lower h1] at hi
    rcases encodeBytes_of_decode_lower hi with henc | ⟨-, h0, h1⟩
    · exact hnone i hshort (henc ▸ ⟨_, rfl⟩)
    · exact hnop (congrArg₂ (· ++ ·) h0 h1)

/-- Settles O6: in the lower slot the top bit leaves the parallel NOP alone. -/
theorem parallelNop : Obligations.ParallelNop := by
  intro s _ h1 hm
  have ha := acceptsInterrupt_of_lower h1
  refine ⟨fun hnop => ?_, fun hne => step_of_fetchInstr_error ha fun i => ?_⟩
  · have hi : s.fetchInstr = .ok .nop := by rw [fetchInstr_lower h1, hnop]; rfl
    exact ⟨_, step_of_fetchInstr ha hi, rfl, frame_advance _ 2⟩
  · rw [fetchInstr_lower h1, decodeHalves]
    simp [hm, hne]

/-- Settles O8: the entry sequence, from the state past the boundary. -/
theorem interruptTaken : Obligations.InterruptTaken := by
  intro s rest hreq hie h0 h1
  have ha : s.acceptsInterrupt = true := (acceptsInterrupt_iff s).mpr ⟨by rw [hreq]; rfl, hie, h0, h1⟩
  refine ⟨_, step_of_acceptsInterrupt ha, { entersEit_takeEit s.pastBoundary .ei s.pc h0 with }, rfl, ?_⟩
  simp [hreq]

end Sys2Proof.Proofs
end

section
/-! PROOFS of the families 44_eit_instructions.md, 10_state.md and 20_memory.md: TRAP and RTE (R281, R282), the address
exception (R410), the control registers (R29 to R48), the PSW bits (R393, R394). -/

namespace Sys2Proof.Machine

-- ## Frames along an instruction's end

/-- Going on to the next instruction is outside every frame. -/
theorem Frame.advance {regs : List Reg} {parts : List Part} {stored : List Word} {s u : State}
    (h : Frame regs parts stored s u) (n : Word) : Frame regs parts stored s (u.advance n) := { h with }

/-- An instruction that leaves `u` and goes on. -/
theorem completes_of {i : Instr} {s u : State} {n : Word} {regs : List Reg} {parts : List Part} {stored : List Word}
    {P : State → Prop} (h : exec i s = .next (u.advance n)) (hpc : u.pc = s.pc) (hf : Frame regs parts stored s u)
    (hP : P (u.advance n)) : Completes i s n regs parts stored P :=
  ⟨_, h, congrArg (· + n) hpc, hf.advance n, hP⟩

-- ## TRAP and RTE (R281, R282)

theorem frame_takeEit (s : State) (k : EitKind) (b : Word) : Frame [] [.psw, .bpc] [] s (s.takeEit k b) :=
  frame_of (fun r h _ => reg_congr_low (s := s) (t := s.takeEit k b) rfl r h) (fun _ _ => rfl) (fun _ _ => rfl)
    (fun _ h => absurd (by simp) h) (fun h => absurd (by simp) h) (fun _ _ => rfl)
    ⟨fun h => absurd (by simp) h, fun h => absurd (by simp) h⟩
    ⟨fun h => absurd (by simp) h, fun _ => rfl, fun _ => rfl, fun _ => rfl, rfl, rfl⟩

theorem frame_returnFromEit (s : State) : Frame [] [.psw, .bpc] [] s s.returnFromEit :=
  frame_of (fun r h _ => reg_congr_low (s := s) (t := s.returnFromEit) rfl r h) (fun _ _ => rfl) (fun _ _ => rfl)
    (fun _ h => absurd (by simp) h) (fun h => absurd (by simp) h) (fun _ _ => rfl)
    ⟨fun h => absurd (by simp) h, fun h => absurd (by simp) h⟩
    ⟨fun h => absurd (by simp) h, fun _ => rfl, fun _ => rfl, fun _ => rfl, rfl, rfl⟩

section
variable (s : State)
theorem sm_returnFromEit : s.returnFromEit.sm = s.bsm := getLsbD_pswAfterRte s.psw _ 7
theorem ie_returnFromEit : s.returnFromEit.ie = s.bie := getLsbD_pswAfterRte s.psw _ 6
theorem c_returnFromEit : s.returnFromEit.c = s.bc := getLsbD_pswAfterRte s.psw _ 0
end

theorem exec_rte_of_defined {s : State} (hpsw : s.bpswOpen = false) (hbpc : s.bpcOpen = false) :
    exec .rte s = .next s.returnFromEit :=
  if_pos (by simp [State.returnDefined, hpsw, hbpc])

theorem exec_rte_of_open {s : State} (h : s.bpswOpen = true ∨ s.bpcOpen = true) :
    exec .rte s = .refused .undefinedReturnState :=
  if_neg (by rcases h with h | h <;> simp [State.returnDefined, h])

/-- PC + 4 with its low two bits cleared is the word after the one at PC. -/
theorem wordAligned_add_four (pc : Word) : wordAligned (pc + 4) = wordAligned pc + 4 := by
  rw [← BitVec.toNat_inj, toNat_wordAligned, BitVec.toNat_add, BitVec.toNat_add, toNat_wordAligned]
  have := pc.isLt
  simp
  omega

-- ## The address exception (R410)

/-- A misaligned data access takes the address exception. -/
theorem takesAe_of {i : Instr} {s done : State} {w : AccessWidth} {ea : Word} (hpc : s.pc.getLsbD 0 = false)
    (h : exec i s = accessOrAe w ea s done) (ha : w.alignedAt ea = false) : TakesAe i s :=
  ⟨_, h.trans (accessOrAe_misaligned s done ha), entersEit_takeEit s .ae s.pc hpc, rfl, rfl⟩

theorem alignedAt_word_eq_false {ea : Word} (h : ea.toNat % 4 ≠ 0) : AccessWidth.word.alignedAt ea = false := by
  rw [← Bool.not_eq_true, alignedAt_word_iff]
  exact h

theorem alignedAt_half_eq_false {ea : Word} (h : ea.toNat % 2 ≠ 0) : AccessWidth.half.alignedAt ea = false := by
  rw [← Bool.not_eq_true, alignedAt_half_iff]
  exact h

-- ## Control registers

/-- CBR is the condition bit (R35). -/
theorem cbr_eq (s : State) : s.cbr = if s.c then 0x00000001#32 else 0x00000000#32 := by
  apply BitVec.eq_of_getLsbD_eq
  intro k hk
  rw [State.cbr, State.c, BitVec.getLsbD_and, apply_ite (BitVec.getLsbD · k), BitVec.getLsbD_one]
  rcases Nat.eq_zero_or_pos k with rfl | hpos
  · simp
  · simp [hpos.ne']

theorem getLsbD_fpsrRead (s : State) (k : Nat) :
    s.fpsrRead.getLsbD k = if k = 31 then fpsrSummary s.fpsr else
      decide (k < 9 ∨ (10 ≤ k ∧ k ≤ 14) ∨ (26 ≤ k ∧ k ≤ 30)) && s.fpsr.getLsbD k := by
  rw [State.fpsrRead, getLsbD_putBit _ _ _ _ (by omega), BitVec.getLsbD_and]
  by_cases hk : k < 32
  · interval_cases k <;> simp [fpsrPlainMask, fpsrCauseMask]
  · simp [BitVec.getLsbD_of_ge _ k (Nat.not_lt.mp hk)]

theorem getLsbD_fpsrWritten (old v : Word) (k : Nat) :
    (fpsrWritten old v).getLsbD k = if 2 ≤ k ∧ k ≤ 7 then old.getLsbD k && v.getLsbD k else
      decide (k < 9 ∨ (10 ≤ k ∧ k ≤ 14) ∨ (26 ≤ k ∧ k ≤ 30)) && v.getLsbD k := by
  rw [fpsrWritten, BitVec.getLsbD_or, BitVec.getLsbD_and, BitVec.getLsbD_and, BitVec.getLsbD_and]
  by_cases hk : k < 32
  · interval_cases k <;> simp [fpsrPlainMask, fpsrCauseMask]
  · simp [BitVec.getLsbD_of_ge _ k (Nat.not_lt.mp hk)]

theorem getLsbD_selectedPswBits (imm : BitVec 8) (k : Nat) :
    (selectedPswBits imm).getLsbD k = (decide (k = 7 ∨ k = 6 ∨ k = 0) && imm.getLsbD k) := by
  rw [selectedPswBits, unsignedField, BitVec.getLsbD_and, BitVec.getLsbD_setWidth]
  by_cases hk : k < 32
  · interval_cases k <;> simp
  · simp [BitVec.getLsbD_of_ge _ k (show 8 ≤ k by omega)]

theorem and_summary_eq_zero_iff (v : Word) : v &&& 0x3C000000#32 = 0 ↔ fpsrSummary v = false := by
  simp only [fpsrSummary, Bool.or_eq_false_iff]
  constructor
  · intro h
    have hbit (k : Nat) : (v &&& 0x3C000000#32).getLsbD k = false := by rw [h]; exact BitVec.getLsbD_zero
    exact ⟨⟨⟨by simpa using hbit 29, by simpa using hbit 28⟩, by simpa using hbit 27⟩, by simpa using hbit 26⟩
  · rintro ⟨⟨⟨h29, h28⟩, h27⟩, h26⟩
    apply BitVec.eq_of_getLsbD_eq
    intro k hk
    interval_cases k <;> simp_all

/-- FPSR as MVFC reads it, by one mask and the summary (R43). -/
theorem fpsrRead_eq (s : State) :
    s.fpsrRead = (s.fpsr &&& 0x7C007DFF#32) |||
      (if s.fpsr &&& 0x3C000000#32 = 0 then 0x00000000#32 else 0x80000000#32) := by
  apply BitVec.eq_of_getLsbD_eq
  intro k hk
  rw [getLsbD_fpsrRead, BitVec.getLsbD_or, BitVec.getLsbD_and]
  simp only [and_summary_eq_zero_iff]
  cases fpsrSummary s.fpsr <;> interval_cases k <;> simp

theorem frame_spi (s : State) (v : Word) : Frame [] [.spi] [] s { s with spi := v } :=
  frame_of (fun r h _ => reg_congr_low (s := s) (t := { s with spi := v }) rfl r h) (fun h => absurd (by simp) h)
    (fun _ _ => rfl) (fun _ _ => rfl) (fun _ _ _ => rfl) (fun _ _ => rfl) ⟨fun _ => rfl, fun _ => rfl⟩
    ⟨fun _ => rfl, fun _ => rfl, fun _ => rfl, fun _ => rfl, rfl, rfl⟩

theorem frame_spu (s : State) (v : Word) : Frame [] [.spu] [] s { s with spu := v } :=
  frame_of (fun r h _ => reg_congr_low (s := s) (t := { s with spu := v }) rfl r h) (fun _ _ => rfl)
    (fun h => absurd (by simp) h) (fun _ _ => rfl) (fun _ _ _ => rfl) (fun _ _ => rfl) ⟨fun _ => rfl, fun _ => rfl⟩
    ⟨fun _ => rfl, fun _ => rfl, fun _ => rfl, fun _ => rfl, rfl, rfl⟩

theorem frame_setBpc (s : State) (v : Word) : Frame [] [.bpc] [] s (s.setBpc v) :=
  frame_of (fun _ _ _ => rfl) (fun _ _ => rfl) (fun _ _ => rfl) (fun _ _ => rfl) (fun _ _ _ => rfl) (fun _ _ => rfl)
    ⟨fun _ => rfl, fun h => absurd (by simp) h⟩
    ⟨fun h => absurd (by simp) h, fun _ => rfl, fun _ => rfl, fun _ => rfl, rfl, rfl⟩

/-- A number that names no control register is neither read nor written (R29). -/
theorem readCtrl_eq_none {n : CtrlNum} (h : n ∉ ([0, 1, 2, 3, 6, 7] : List CtrlNum)) (s : State) :
    s.readCtrl n = none := by
  simp only [List.mem_cons, List.not_mem_nil, or_false, not_or] at h
  simp [State.readCtrl, h]

theorem writeCtrl_eq_none {n : CtrlNum} (h : n ∉ ([0, 1, 2, 3, 6, 7] : List CtrlNum)) (s : State) (v : Word) :
    s.writeCtrl n v = none := by
  simp only [List.mem_cons, List.not_mem_nil, or_false, not_or] at h
  simp [State.writeCtrl, h]

end Sys2Proof.Machine

namespace Sys2Proof.Proofs

open Sys2Proof.Machine

/-- Settles O10. -/
theorem trapEnters : Obligations.TrapEnters := fun n s h0 =>
  ⟨_, rfl, entersEit_takeEit s (.trap n) (s.pc + 4) (even_add_four h0), rfl, rfl⟩

/-- Settles O11. -/
theorem rteReturns : Obligations.RteReturns := fun s =>
  ⟨fun hpsw hbpc => ⟨_, exec_rte_of_defined hpsw hbpc, rfl, sm_returnFromEit s, ie_returnFromEit s, c_returnFromEit s,
    frame_returnFromEit s, pswAfterRte_reserved _ _, and_bpcMask_even _, exec_rte_of_open (.inl rfl)⟩, exec_rte_of_open⟩

/-- Settles O12: what TRAP saves is what RTE restores. -/
theorem trapThenRte : Obligations.TrapThenRte := by
  intro n s h0
  have he := entersEit_takeEit s (.trap n) (s.pc + 4) (even_add_four h0)
  generalize ht : s.takeEit (.trap n) (s.pc + 4) = t at he
  obtain ⟨hpsw, hbpc⟩ := he.returnDefined
  have hf := (frame_takeEit s (.trap n) (s.pc + 4)).trans (frame_returnFromEit (s.takeEit (.trap n) (s.pc + 4)))
    (by rw [ht, he.sm]; rfl)
  refine ⟨t, t.returnFromEit, ht ▸ rfl, exec_rte_of_defined hpsw hbpc, ?pc, ?sm, ?ie, ?c, ?frame⟩
  case pc =>
    rw [returnFromEit_pc, he.bpc, wordAligned_add_four]
    rfl
  case sm => rw [sm_returnFromEit, he.bsm]
  case ie => rw [ie_returnFromEit, he.bie]
  case c => rw [c_returnFromEit, he.bc]
  case frame => exact (ht ▸ hf).mono (by simp) (by simp) (by simp)

/-- Settles O13: each form is a data access at its address. -/
theorem addressException : Obligations.AddressException := by
  intro d b disp s h0
  refine ⟨fun h => ?word, fun h => ?wordDisp, fun h => ?half, fun h => ?halfDisp⟩
  case word =>
    have ha := alignedAt_word_eq_false h
    refine ⟨takesAe_of h0 rfl ha, takesAe_of h0 rfl ha, takesAe_of h0 rfl ha, fun hne => ?updating, fun hl => ?unlock⟩
    case unlock => exact takesAe_of h0 (if_pos hl) ha
    case updating =>
      have hinc : AccessWidth.word.alignedAt (s.eaPreIncrement b) = false := alignedAt_word_eq_false (by
        rw [State.eaPreIncrement, BitVec.toNat_add]; simp; omega)
      have hdec : AccessWidth.word.alignedAt (s.eaPreDecrement b) = false := alignedAt_word_eq_false (by
        rw [State.eaPreDecrement, BitVec.toNat_sub]; simp; omega)
      exact ⟨takesAe_of h0 (if_neg hne) ha, takesAe_of h0 (if_neg hne) hinc, takesAe_of h0 (if_neg hne) hdec⟩
  case wordDisp =>
    have ha := alignedAt_word_eq_false h
    exact ⟨takesAe_of h0 rfl ha, takesAe_of h0 rfl ha⟩
  case half =>
    have ha := alignedAt_half_eq_false h
    exact ⟨takesAe_of h0 rfl ha, takesAe_of h0 rfl ha, takesAe_of h0 rfl ha, takesAe_of h0 rfl ha⟩
  case halfDisp =>
    have ha := alignedAt_half_eq_false h
    exact ⟨takesAe_of h0 rfl ha, takesAe_of h0 rfl ha, takesAe_of h0 rfl ha⟩

/-- Settles O15. -/
theorem mvfcReads : Obligations.MvfcReads := by
  intro d s
  rw [← cbr_eq, ← fpsrRead_eq]
  exact ⟨writesReg_of rfl, writesReg_of rfl, writesReg_of rfl, writesReg_of rfl, writesReg_of rfl, writesReg_of rfl⟩

/-- Settles O16. -/
theorem mvtcWrites : Obligations.MvtcWrites := fun _ s =>
  ⟨completes_of rfl rfl (frame_psw s _ false) ⟨rfl, rfl⟩, completes_of rfl rfl (frame_pc s s.pc s.draws []) trivial,
    completes_of rfl rfl (frame_spi s _) rfl, completes_of rfl rfl (frame_spu s _) rfl,
    completes_of rfl rfl (frame_setBpc s _) ⟨rfl, rfl⟩, completes_of rfl rfl (frame_fpsr s _) rfl⟩

/-- Settles O18, bit by bit. -/
theorem fpsrWriteRule : Obligations.FpsrWriteRule := by
  intro d r s
  refine ⟨completes_of (exec_mvtc_fpsr r s) rfl (frame_fpsr s _) ⟨fun k hk => ?plain, fun k h2 h7 => ?cause⟩,
    completes_of (exec_mvfc_fpsr d s) (setReg_pc s d _) (frame_setReg s d _) ⟨fun k hk => ?read, fun k hk => ?zero⟩⟩
  case plain =>
    rw [advance_fpsr, getLsbD_fpsrWritten, if_neg (by omega), decide_eq_true (by omega), Bool.true_and]
  case cause => rw [advance_fpsr, getLsbD_fpsrWritten, if_pos ⟨h2, h7⟩]
  case read =>
    rw [reg_advance, reg_setReg_self, getLsbD_fpsrRead, if_neg (by omega), decide_eq_true hk, Bool.true_and]
  case zero =>
    rw [reg_advance, reg_setReg_self, getLsbD_fpsrRead, if_neg (by omega), decide_eq_false (by omega), Bool.false_and]

/-- Settles O19. -/
theorem refusedForms : Obligations.RefusedForms := by
  refine ⟨fun _ n s hn => ⟨?_, ?_⟩, fun _ _ => ⟨if_pos rfl, if_pos rfl, if_pos rfl⟩⟩
  · simp [exec, execMvfc, readCtrl_eq_none hn]
  · simp [exec, execMvtc, writeCtrl_eq_none hn]

/-- Settles O20, by the bits that the immediate selects. -/
theorem setClearPsw : Obligations.SetClearPsw := by
  intro imm s
  have hset (k : Nat) : (s.psw ||| selectedPswBits imm).getLsbD k =
      (s.psw.getLsbD k || (decide (k = 7 ∨ k = 6 ∨ k = 0) && imm.getLsbD k)) := by
    rw [BitVec.getLsbD_or, getLsbD_selectedPswBits]
  have hclear (k : Nat) (hk : k < 32) : (s.psw &&& ~~~ selectedPswBits imm).getLsbD k =
      (s.psw.getLsbD k && !(decide (k = 7 ∨ k = 6 ∨ k = 0) && imm.getLsbD k)) := by
    rw [BitVec.getLsbD_and, BitVec.getLsbD_not, getLsbD_selectedPswBits, decide_eq_true hk, Bool.true_and]
  refine ⟨completes_of (exec_setpsw imm s) rfl (frame_psw s _ s.bpswOpen) ⟨hset 7, hset 6, hset 0, rfl, ?set⟩,
    completes_of (exec_clrpsw imm s) rfl (frame_psw s _ s.bpswOpen)
      ⟨hclear 7 (by omega), hclear 6 (by omega), hclear 0 (by omega), rfl, ?clear⟩⟩
  case set =>
    intro k h7 h6 h0
    simpa [h7, h6, h0] using hset k
  case clear =>
    intro k h7 h6 h0
    by_cases hk : k < 32
    · simpa [h7, h6, h0] using hclear k hk
    · rw [BitVec.getLsbD_of_ge _ k (by omega), BitVec.getLsbD_of_ge _ k (by omega)]

end Sys2Proof.Proofs
end

section
/-! PROOFS of the families 20_memory.md and 40_load_store.md: the byte order (R84), loads and stores (R150 to R172),
UNLOCK (R171), BSET and BCLR (R391, R392). -/

namespace Sys2Proof.Machine

-- ## Bytes written and read back (R84)

theorem readByte_writeByte_self (s : State) (a : Word) (b : Byte) : (s.writeByte a b).readByte a = b := by
  rw [readByte_writeByte, if_pos rfl]

theorem readByte_writeHalf (s : State) (a : Word) (v : Half) :
    (s.writeHalf a v).readByte a = v.extractLsb' 8 8 ∧ (s.writeHalf a v).readByte (a + 1) = v.extractLsb' 0 8 := by
  simp [State.writeHalf, readByte_writeByte]

theorem readByte_writeWord (s : State) (a v : Word) :
    (s.writeWord a v).readByte a = v.extractLsb' 24 8 ∧ (s.writeWord a v).readByte (a + 1) = v.extractLsb' 16 8 ∧
      (s.writeWord a v).readByte (a + 2) = v.extractLsb' 8 8 ∧
      (s.writeWord a v).readByte (a + 3) = v.extractLsb' 0 8 := by
  simp [State.writeWord, readByte_writeByte]

/-- A halfword is its two bytes, a word its four. -/
theorem append_bytes16 (v : Half) : v.extractLsb' 8 8 ++ v.extractLsb' 0 8 = v :=
  BitVec.extractLsb'_append_extractLsb' (w := 8) (len := 8)

theorem append_bytes32 (v : Word) :
    v.extractLsb' 24 8 ++ v.extractLsb' 16 8 ++ v.extractLsb' 8 8 ++ v.extractLsb' 0 8 = v := by
  apply BitVec.eq_of_getLsbD_eq
  intro k hk
  simp only [BitVec.getLsbD_extractLsb', BitVec.getLsbD_append]
  interval_cases k <;> simp

theorem readHalf_writeHalf (s : State) (a : Word) (v : Half) : (s.writeHalf a v).readHalf a = v := by
  obtain ⟨h0, h1⟩ := readByte_writeHalf s a v
  rw [State.readHalf, h0, h1, append_bytes16]

theorem readWord_writeWord (s : State) (a v : Word) : (s.writeWord a v).readWord a = v := by
  obtain ⟨h0, h1, h2, h3⟩ := readByte_writeWord s a v
  rw [State.readWord, h0, h1, h2, h3, append_bytes32]

-- ## What loads and stores answer at an address their width may be accessed at (R86)

section
variable {i : Instr} {s : State} {ea n : Word}

theorem alignedAt_word {ea : Word} (h : ea.toNat % 4 = 0) : AccessWidth.word.alignedAt ea = true :=
  (alignedAt_word_iff ea).mpr h

theorem alignedAt_half {ea : Word} (h : ea.toNat % 2 = 0) : AccessWidth.half.alignedAt ea = true :=
  (alignedAt_half_iff ea).mpr h

/-- A load writes its register (R150). -/
theorem writesReg_of_loadFrom {w : AccessWidth} {d : Reg} {v : Word} (h : exec i s = loadFrom w d ea v n s)
    (ha : w.alignedAt ea = true) : WritesReg i s n d v :=
  writesReg_of (h.trans (accessOrAe_aligned s _ ha))

/-- A load's aligned byte. -/
theorem alignedAt_byte (ea : Word) : AccessWidth.byte.alignedAt ea = true := rfl

/-- A store writes its bytes (R150). -/
theorem completes_of_storeWordAt {r : Reg} (h : exec i s = storeWordAt r ea n s) (ha : ea.toNat % 4 = 0) :
    Completes i s n [] [] (AccessWidth.word.bytesAt ea) (fun t => t.readWord ea = s.reg r) :=
  completes_of (h.trans (accessOrAe_aligned s _ (alignedAt_word ha))) (writeWord_pc s ea _) (frame_writeWord s ea _)
    (readWord_writeWord s ea (s.reg r))

theorem completes_of_storeHalfAt {r : Reg} (h : exec i s = storeHalfAt r ea n s) (ha : ea.toNat % 2 = 0) :
    Completes i s n [] [] (AccessWidth.half.bytesAt ea) (fun t => t.readHalf ea = (s.reg r).extractLsb' 0 16) :=
  completes_of (h.trans (accessOrAe_aligned s _ (alignedAt_half ha))) (writeHalf_pc s ea _) (frame_writeHalf s ea _)
    (readHalf_writeHalf s ea _)

theorem completes_of_storeByteAt {r : Reg} (h : exec i s = storeByteAt r ea n s) :
    Completes i s n [] [] (AccessWidth.byte.bytesAt ea) (fun t => t.readByte ea = (s.reg r).extractLsb' 0 8) :=
  completes_of (h.trans (accessOrAe_aligned s _ rfl)) rfl (frame_writeByte s ea _)
    (readByte_writeByte_self s ea _)

/-- A store that updates its base register. -/
theorem completes_of_storeUpdate {w : AccessWidth} {u : State} {b : Reg} {v : Word} {stored : List Word}
    {Q : State → Prop}
    (h : exec i s = accessOrAe w ea s ((u.setReg b v).advance n)) (ha : w.alignedAt ea = true) (hpc : u.pc = s.pc)
    (hsm : u.sm = s.sm) (hf : Frame [] [] stored s u) (hQ : Q ((u.setReg b v).advance n)) :
    Completes i s n [b] [] stored (fun t => Q t ∧ t.reg b = v) :=
  completes_of (h.trans (accessOrAe_aligned s _ ha)) ((setReg_pc u b v).trans hpc)
    ((hf.trans (frame_setReg u b v) hsm).mono (by simp) (by simp) (by simp)) ⟨hQ, by simp⟩
end

/-- A word stored is read back after a register is written. -/
theorem readWord_setReg (s : State) (r : Reg) (v a : Word) : (s.setReg r v).readWord a = s.readWord a :=
  readWord_congr (setReg_mem s r v) a

theorem readHalf_setReg (s : State) (r : Reg) (v a : Word) : (s.setReg r v).readHalf a = s.readHalf a :=
  readHalf_congr (setReg_mem s r v) a

-- ## One bit of one byte (R390 to R392)

theorem getLsbD_bitMask (p : Fin 8) (k : Nat) (hk : k < 8) : (bitMask p).getLsbD k = decide (k + p.val = 7) := by
  revert p
  interval_cases k <;> decide

theorem exec_bset (p : Fin 8) (disp : BitVec 16) (b : Reg) (s : State) :
    exec (.bset p disp b) s = changeByteAt (s.eaDisplaced disp b) (fun v => v ||| bitMask p) s := rfl

theorem exec_bclr (p : Fin 8) (disp : BitVec 16) (b : Reg) (s : State) :
    exec (.bclr p disp b) s = changeByteAt (s.eaDisplaced disp b) (fun v => v &&& ~~~ bitMask p) s := rfl

/-- BSET and BCLR leave a byte changed and the LOCK bit 0. -/
theorem completes_of_changeByteAt {i : Instr} {s : State} {ea : Word} {f : Byte → Byte}
    (h : exec i s = changeByteAt ea f s) :
    Completes i s 4 [] [.lock] [ea] (fun t => t.lockBit = false ∧ t.readByte ea = f (s.readByte ea)) :=
  completes_of h rfl ((frame_writeByte s ea _).trans (frame_lock _ false) rfl)
    ⟨rfl, readByte_writeByte_self s ea _⟩

end Sys2Proof.Machine

namespace Sys2Proof.Proofs

open Sys2Proof.Machine

/-- Settles O21. -/
theorem bigEndian : Obligations.BigEndian := by
  intro s a v h
  obtain ⟨w0, w1, w2, w3⟩ := readByte_writeWord s a v
  obtain ⟨h0, h1⟩ := readByte_writeHalf s a h
  exact ⟨readWord_writeWord s a v, w0, w1, w2, w3, readHalf_writeHalf s a h, h0, h1,
    fun x hx => readByte_writeWord_of_not_mem s a x v hx, fun x hx => readByte_writeHalf_of_not_mem s a x h hx⟩

/-- Settles O22. -/
theorem wordLoads : Obligations.WordLoads := by
  intro d b disp s
  refine ⟨fun h => ⟨writesReg_of_loadFrom rfl (alignedAt_word h), fun hne => ?postInc, ?lock⟩,
    fun h => writesReg_of_loadFrom rfl (alignedAt_word h)⟩
  case postInc =>
    refine completes_of ((if_neg hne).trans (accessOrAe_aligned s _ (alignedAt_word h))) (by simp)
      ((frame_setReg s d _).trans (frame_setReg _ b _) (sm_setReg s d _)) ⟨?_, by simp; rfl⟩
    rw [reg_advance, reg_setReg_of_ne _ _ hne, reg_setReg_self]
    rfl
  case lock =>
    exact completes_of (accessOrAe_aligned s _ (alignedAt_word h)) (by simp)
      ((frame_lock s true).trans (frame_setReg _ d _) rfl) ⟨by simp; rfl, by simp⟩

/-- Settles O23. -/
theorem narrowLoads : Obligations.NarrowLoads := fun _ _ _ _ =>
  ⟨writesReg_of_loadFrom rfl rfl, writesReg_of_loadFrom rfl rfl, writesReg_of_loadFrom rfl rfl,
    writesReg_of_loadFrom rfl rfl,
    fun h => ⟨writesReg_of_loadFrom rfl (alignedAt_half h), writesReg_of_loadFrom rfl (alignedAt_half h)⟩,
    fun h => ⟨writesReg_of_loadFrom rfl (alignedAt_half h), writesReg_of_loadFrom rfl (alignedAt_half h)⟩⟩

/-- Settles O24. -/
theorem plainStores : Obligations.PlainStores := fun _ _ _ _ =>
  ⟨completes_of_storeWordAt rfl, completes_of_storeWordAt rfl, completes_of_storeHalfAt rfl,
    completes_of_storeHalfAt rfl, completes_of_storeByteAt rfl, completes_of_storeByteAt rfl⟩

/-- Settles O25. -/
theorem updatingStores : Obligations.UpdatingStores := by
  intro a b s
  refine ⟨fun hne ha => ?_, fun hne ha => ?_, fun ha => ?_⟩
  · exact completes_of_storeUpdate (Q := fun t => t.readWord (s.eaPreIncrement b) = s.reg a) (if_neg hne)
      (alignedAt_word ha) (by simp) (by simp) (frame_writeWord s _ _)
      ((readWord_setReg _ b _ _).trans (readWord_writeWord s _ _))
  · exact completes_of_storeUpdate (Q := fun t => t.readWord (s.eaPreDecrement b) = s.reg a) (if_neg hne)
      (alignedAt_word ha) (by simp) (by simp) (frame_writeWord s _ _)
      ((readWord_setReg _ b _ _).trans (readWord_writeWord s _ _))
  · exact completes_of_storeUpdate (Q := fun t => t.readHalf (s.eaIndirect b) = (s.reg a).extractLsb' 0 16) rfl
      (alignedAt_half ha) (by simp) (by simp) (frame_writeHalf s _ _)
      ((readHalf_setReg _ b _ _).trans (readHalf_writeHalf s _ _))

/-- Settles O26. -/
theorem unlockStores : Obligations.UnlockStores := by
  intro a b s
  refine ⟨fun hl ha => ?_, fun hl => ?_⟩
  · exact completes_of ((if_pos hl).trans (accessOrAe_aligned s _ (alignedAt_word ha))) (by simp)
      ((frame_writeWord s _ _).trans (frame_lock _ false) (by simp))
      ⟨(readWord_congr (s := s.writeWord (s.eaIndirect b) (s.reg a)) rfl _).trans (readWord_writeWord s _ _), rfl⟩
  · exact completes_of (if_neg (by simp [hl])) rfl (frame_lock s false) rfl

/-- Settles O27, bit by bit of the byte changed. -/
theorem bitSetClear : Obligations.BitSetClear := by
  intro p disp b s
  obtain ⟨t, ht, hpc, hf, hlock, hbyte⟩ := completes_of_changeByteAt (exec_bset p disp b s)
  obtain ⟨u, hu, hpcu, hfu, hlocku, hbyteu⟩ := completes_of_changeByteAt (exec_bclr p disp b s)
  refine ⟨⟨t, ht, hpc, hf, hlock, fun k hk => ?set⟩, ⟨u, hu, hpcu, hfu, hlocku, fun k hk => ?clear⟩⟩
  case set => rw [hbyte, BitVec.getLsbD_or, getLsbD_bitMask p k hk]
  case clear => rw [hbyteu, BitVec.getLsbD_and, BitVec.getLsbD_not, getLsbD_bitMask p k hk]; simp [hk]

end Sys2Proof.Proofs
end

section
/-! PROOFS of the families 41_transfer.md and 42_arith_logic.md: transfers, compares, arithmetic, logic, multiplication
and division, shifts. -/

namespace Sys2Proof.Machine

/-- A weaker condition on the state reached. -/
theorem Completes.imp {i : Instr} {s : State} {n : Word} {regs : List Reg} {parts : List Part} {stored : List Word}
    {P Q : State → Prop} (h : Completes i s n regs parts stored P) (hPQ : ∀ t, P t → Q t) :
    Completes i s n regs parts stored Q := by
  obtain ⟨t, hexec, hpc, hf, hP⟩ := h
  exact ⟨t, hexec, hpc, hf, hPQ t hP⟩

-- ## Values of the operands

/-- The immediate of SETH over zeros (R187). -/
theorem highHalf_eq (imm16 : BitVec 16) : highHalf imm16 = imm16.zeroExtend 32 <<< 16 := by
  apply BitVec.eq_of_getLsbD_eq
  intro k hk
  rw [highHalf, BitVec.getLsbD_append, BitVec.getLsbD_shiftLeft]
  by_cases h : k < 16
  · simp [h]
  · have hlt : k - 16 < 32 := by omega
    simp [h, hk, hlt]

theorem toInt_signedField (imm : BitVec 16) : (signedField imm).toInt = imm.toInt :=
  BitVec.toInt_signExtend_of_le (by omega)

/-- A shift amount is the low five bits (R229). -/
theorem shiftAmount_eq_and {n : Nat} (v : BitVec n) (h : 5 ≤ n) : shiftAmount v = (v &&& 31).toNat := by
  have hlt : 31 < 2 ^ n := lt_of_lt_of_le (by norm_num) (Nat.pow_le_pow_right two_pos h)
  have hmask : (31 : BitVec n).toNat = 31 := (BitVec.toNat_ofNat 31 n).trans (Nat.mod_eq_of_lt hlt)
  rw [BitVec.toNat_and, hmask, shiftAmount]
  exact (Nat.and_two_pow_sub_one_eq_mod v.toNat 5).symm

-- ## The condition bit as an inequality of exact integers (R208 to R214)

theorem bmod_word_eq_self_iff (z : Int) : z.bmod (2 ^ 32) = z ↔ -2 ^ 31 ≤ z ∧ z < 2 ^ 31 := by
  rw [Int.bmod_def]
  split <;> omega

theorem addOverflows_iff (a b : Word) :
    addOverflows a b = true ↔ (a.toInt + b.toInt < -2 ^ 31 ∨ 2 ^ 31 ≤ a.toInt + b.toInt) := by
  rw [addOverflows, decide_eq_true_iff, BitVec.toInt_add, Ne, eq_comm, bmod_word_eq_self_iff]
  omega

theorem subOverflows_iff (a b : Word) :
    subOverflows a b = true ↔ (a.toInt - b.toInt < -2 ^ 31 ∨ 2 ^ 31 ≤ a.toInt - b.toInt) := by
  rw [subOverflows, decide_eq_true_iff, BitVec.toInt_sub, Ne, eq_comm, bmod_word_eq_self_iff]
  omega

/-- The sum and its carry are the exact sum (R210). -/
theorem sumWithCarry_eq (a b : Word) (c : Bool) :
    (BitVec.ofNat 32 (sumWithCarry a b c)).toNat + 2 ^ 32 * (carryOut a b c).toNat = a.toNat + b.toNat + c.toNat := by
  have ha := a.isLt
  have hb := b.isLt
  have hc := c.toNat_le
  rw [BitVec.toNat_ofNat, carryOut]
  by_cases h : 2 ^ 32 ≤ sumWithCarry a b c
  · rw [decide_eq_true h, Bool.toNat_true]
    unfold sumWithCarry at h ⊢
    omega
  · rw [decide_eq_false h, Bool.toNat_false]
    unfold sumWithCarry at h ⊢
    omega

/-- The difference less its borrow is the exact difference (R214). -/
theorem differenceWithBorrow_eq (a b : Word) (c : Bool) :
    ((BitVec.ofInt 32 (differenceWithBorrow a b c)).toNat : Int) - 2 ^ 32 * (borrowOut a b c).toNat =
      a.toNat - b.toNat - c.toNat := by
  have ha := a.isLt
  have hb := b.isLt
  have hc := c.toNat_le
  rw [BitVec.toNat_ofInt, borrowOut]
  by_cases h : differenceWithBorrow a b c < 0
  · rw [decide_eq_true h, Bool.toNat_true]
    unfold differenceWithBorrow at h ⊢
    omega
  · rw [decide_eq_false h, Bool.toNat_false]
    unfold differenceWithBorrow at h ⊢
    omega

-- ## Products and quotients (R222 to R228)

theorem ofInt_toInt_mul (a b : Word) : BitVec.ofInt 32 (a.toInt * b.toInt) = a * b := by
  rw [BitVec.ofInt_mul, BitVec.ofInt_toInt, BitVec.ofInt_toInt]

theorem toInt_mul_sub_emod (a b : Word) : ((a * b).toInt - a.toInt * b.toInt) % 2 ^ 32 = 0 := by
  rw [BitVec.toInt_mul]
  exact Int.emod_eq_zero_of_dvd (Int.dvd_bmod_sub_self)

theorem divisionOverflows_eq_false {a b : Word} (h : ¬ (a = 0x80000000#32 ∧ b = 0xFFFFFFFF#32)) :
    divisionOverflows a b = false := by
  rw [divisionOverflows, Bool.and_eq_false_iff, beq_eq_false_iff_ne, beq_eq_false_iff_ne]
  tauto

theorem toInt_quotient {a b : Word} (h : ¬ (a = 0x80000000#32 ∧ b = 0xFFFFFFFF#32)) :
    (BitVec.ofInt 32 (a.toInt.tdiv b.toInt)).toInt = a.toInt.tdiv b.toInt := by
  have hdiv : (a.sdiv b).toInt = a.toInt.tdiv b.toInt :=
    BitVec.toInt_sdiv_of_ne_or_ne a b (not_and_or.mp h)
  rw [← hdiv, BitVec.ofInt_toInt]

theorem toInt_remainder (a b : Word) :
    (BitVec.ofInt 32 (a.toInt - a.toInt.tdiv b.toInt * b.toInt)).toInt = a.toInt.tmod b.toInt := by
  have hrem : a.toInt - a.toInt.tdiv b.toInt * b.toInt = (a.srem b).toInt := by
    rw [BitVec.toInt_srem, Int.tmod_def, Int.mul_comm]
  rw [hrem, BitVec.ofInt_toInt, BitVec.toInt_srem]

section
variable {d r : Reg} {s : State}

theorem exec_div (h0 : s.reg r ≠ 0) (hov : ¬ (s.reg d = 0x80000000#32 ∧ s.reg r = 0xFFFFFFFF#32)) :
    exec (.div d r) s =
      .next ((s.setReg d (BitVec.ofInt 32 ((s.reg d).toInt.tdiv (s.reg r).toInt))).advance 4) :=
  (if_neg h0).trans (if_neg (by simp [divisionOverflows_eq_false hov]))

theorem exec_rem (h0 : s.reg r ≠ 0) (hov : ¬ (s.reg d = 0x80000000#32 ∧ s.reg r = 0xFFFFFFFF#32)) :
    exec (.rem d r) s = .next ((s.setReg d (BitVec.ofInt 32
      ((s.reg d).toInt - (s.reg d).toInt.tdiv (s.reg r).toInt * (s.reg r).toInt))).advance 4) :=
  (if_neg h0).trans (if_neg (by simp [divisionOverflows_eq_false hov]))

theorem exec_divu (h0 : s.reg r ≠ 0) :
    exec (.divu d r) s =
      .next ((s.setReg d (BitVec.ofNat 32 ((s.reg d).toNat / (s.reg r).toNat))).advance 4) := if_neg h0

theorem exec_remu (h0 : s.reg r ≠ 0) :
    exec (.remu d r) s =
      .next ((s.setReg d (BitVec.ofNat 32 ((s.reg d).toNat % (s.reg r).toNat))).advance 4) := if_neg h0

/-- The overflowing division draws a free value (R224(g)). -/
theorem completes_of_division_overflow {i : Instr} {v : Word}
    (h : exec i s = resultLong d v { s with draws := s.draws + 1 }) :
    Completes i s 4 [d] [] [] (fun _ => True) :=
  completes_of h (by simp) ((frame_pc s s.pc (s.draws + 1) []).trans (frame_setReg _ d v) rfl) trivial
end

end Sys2Proof.Machine

namespace Sys2Proof.Proofs

open Sys2Proof.Machine

/-- Settles O28. -/
theorem transferValues : Obligations.TransferValues := by
  intro d r imm24 imm16 imm8 s
  rw [← highHalf_eq]
  exact ⟨writesReg_of rfl, writesReg_of rfl, writesReg_of rfl, writesReg_of rfl, writesReg_of rfl⟩

/-- Settles O29. -/
theorem compares : Obligations.Compares := fun _ _ _ _ _ =>
  ⟨writesC_of rfl, writesC_of rfl, writesC_of rfl, writesC_of rfl, writesC_of rfl⟩

/-- Settles O30. -/
theorem addSubtract : Obligations.AddSubtract := by
  intro d r imm16 imm8 s
  rw [← BitVec.zero_sub]
  exact ⟨writesReg_of rfl, writesReg_of rfl, writesReg_of rfl, writesReg_of rfl, writesReg_of rfl⟩

/-- Settles O31. -/
theorem overflowArithmetic : Obligations.OverflowArithmetic := by
  intro d r imm s
  refine ⟨(completes_of_setReg_setC (i := .addv d r) rfl).imp ?addv,
    (completes_of_setReg_setC (i := .addv3 d r imm) rfl).imp ?addv3,
    (completes_of_setReg_setC (i := .subv d r) rfl).imp ?subv⟩
  case addv => exact fun t ⟨hreg, hc⟩ => ⟨hreg, hc ▸ addOverflows_iff _ _⟩
  case addv3 => exact fun t ⟨hreg, hc⟩ => ⟨hreg, hc ▸ toInt_signedField imm ▸ addOverflows_iff _ _⟩
  case subv => exact fun t ⟨hreg, hc⟩ => ⟨hreg, hc ▸ subOverflows_iff _ _⟩

/-- Settles O32. -/
theorem carryArithmetic : Obligations.CarryArithmetic := by
  intro d r s
  refine ⟨(completes_of_setReg_setC (i := .addx d r) rfl).imp ?addx,
    (completes_of_setReg_setC (i := .subx d r) rfl).imp ?subx⟩
  case addx =>
    rintro t ⟨hreg, hc⟩
    rw [hreg, hc, sumWithCarry_eq]
  case subx =>
    rintro t ⟨hreg, hc⟩
    rw [hreg, hc, differenceWithBorrow_eq]

/-- Settles O33. -/
theorem logic : Obligations.Logic := fun _ _ _ _ =>
  ⟨writesReg_of rfl, writesReg_of rfl, writesReg_of rfl, writesReg_of rfl, writesReg_of rfl, writesReg_of rfl,
    writesReg_of rfl⟩

/-- Settles O34. -/
theorem multiply : Obligations.Multiply := by
  intro d r s
  have hmul (t : State) (h : t.reg d = BitVec.ofInt 32 ((s.reg d).toInt * (s.reg r).toInt)) :
      t.reg d = s.reg d * s.reg r ∧ ((t.reg d).toInt - (s.reg d).toInt * (s.reg r).toInt) % 2 ^ 32 = 0 := by
    rw [h, ofInt_toInt_mul]
    exact ⟨rfl, toInt_mul_sub_emod _ _⟩
  exact completes_of rfl (by simp) ((frame_acc s _ _).trans (frame_setReg _ d _) rfl) (hmul _ (by simp))

/-- Settles O35. -/
theorem divide : Obligations.Divide := by
  intro d r s h0
  refine ⟨fun hov => ⟨(writesReg_of (exec_div h0 hov)).imp fun t ht => ?div,
    (writesReg_of (exec_rem h0 hov)).imp fun t ht => ?rem⟩, (writesReg_of (exec_divu h0)).imp fun t ht => ?divu,
    (writesReg_of (exec_remu h0)).imp fun t ht => ?remu⟩
  case div => rw [ht, toInt_quotient hov]
  case rem => rw [ht, toInt_remainder]
  case divu =>
    rw [ht, BitVec.toNat_ofNat]
    exact Nat.mod_eq_of_lt (lt_of_le_of_lt (Nat.div_le_self _ _) (s.reg d).isLt)
  case remu =>
    rw [ht, BitVec.toNat_ofNat]
    exact Nat.mod_eq_of_lt (lt_of_le_of_lt (Nat.mod_le _ _) (s.reg d).isLt)

/-- Settles O36. -/
theorem divideCorners : Obligations.DivideCorners := by
  intro d r s
  refine ⟨fun h0 => ?zero, fun hd hr => ?overflow⟩
  case zero =>
    have nothing (i : Instr) (h : exec i s = .next (s.advance 4)) : Completes i s 4 [] [] [] (fun _ => True) :=
      completes_of h rfl (frame_pc s s.pc s.draws []) trivial
    exact ⟨nothing _ (if_pos h0), nothing _ (if_pos h0), nothing _ (if_pos h0), nothing _ (if_pos h0)⟩
  case overflow =>
    have h0 : s.reg r ≠ 0 := by rw [hr]; decide
    have hov : divisionOverflows (s.reg d) (s.reg r) = true := by rw [hd, hr]; decide
    exact ⟨completes_of_division_overflow ((if_neg h0).trans (if_pos hov)),
      completes_of_division_overflow ((if_neg h0).trans (if_pos hov))⟩

/-- Settles O37. -/
theorem shifts : Obligations.Shifts := by
  intro d r imm n s
  have hreg := shiftAmount_eq_and (s.reg r) (by omega)
  have himm := shiftAmount_eq_and imm (by omega)
  have hn : shiftAmount n = n.toNat := Nat.mod_eq_of_lt n.isLt
  have shifted {i : Instr} {len v w : Word} (h : exec i s = .next ((s.setReg d v).advance len)) (hv : v = w) :
      WritesReg i s len d w := hv ▸ writesReg_of h
  exact ⟨shifted rfl (congrArg (s.reg d <<< ·) hreg), shifted rfl (congrArg (s.reg r <<< ·) himm),
    shifted rfl (congrArg (s.reg d <<< ·) hn), shifted rfl (congrArg (s.reg d).sshiftRight hreg),
    shifted rfl (congrArg (s.reg r).sshiftRight himm), shifted rfl (congrArg (s.reg d).sshiftRight hn),
    shifted rfl (congrArg (s.reg d >>> ·) hreg), shifted rfl (congrArg (s.reg r >>> ·) himm),
    shifted rfl (congrArg (s.reg d >>> ·) hn)⟩

end Sys2Proof.Proofs
end

section
/-! PROOFS of the families 43_branch.md and 45_dsp.md: branches, links and jumps, the accumulator. -/

namespace Sys2Proof.Machine

-- ## Branches (R250 to R272)

theorem GoesTo.imp {i : Instr} {s : State} {regs : List Reg} {a : Word} {P Q : State → Prop} (h : GoesTo i s regs a P)
    (hPQ : ∀ t, P t → Q t) : GoesTo i s regs a Q := by
  obtain ⟨t, hexec, hpc, hf, hP⟩ := h
  exact ⟨t, hexec, hpc, hf, hPQ t hP⟩

section ConditionalBranch
variable {i : Instr} {s : State} {w : Nat} {taken : Bool} {p : BitVec w} {n : Word} {c : Prop} [Decidable c]

/-- A branch that is taken where a condition holds. -/
theorem goesTo_of_taken_iff (h : exec i s = branchIf taken p n s) (hc : taken = true ↔ c) :
    GoesTo i s [] (if c then branchTarget s.pc p else s.pc + n) (fun _ => True) := by
  have hgo := goesTo_of_branchIf (p := p) h
  rwa [if_congr hc rfl rfl] at hgo

/-- A branch that is taken where a condition fails. -/
theorem goesTo_of_taken_iff_not (h : exec i s = branchIf taken p n s) (hc : taken = true ↔ ¬ c) :
    GoesTo i s [] (if c then s.pc + n else branchTarget s.pc p) (fun _ => True) := by
  have hgo := goesTo_of_branchIf (p := p) h
  rwa [if_congr hc rfl rfl, ite_not] at hgo

end ConditionalBranch

/-- A branch with link leaves the next word's address in R14. -/
theorem goesTo_of_branchAndLink {i : Instr} {s : State} {a : Word} (h : exec i s = branchAndLink a s) :
    GoesTo i s [14] a (fun t => t.reg 14 = wordAligned s.pc + 4) :=
  ⟨_, h, rfl, (frame_setReg s linkReg _).trans (frame_jumpTo _ a) (sm_setReg s linkReg _),
    (reg_jumpTo _ a 14).trans (reg_setReg_self s linkReg _)⟩

-- ## The sign of a register (R258 to R261)

theorem toInt_neg_iff_msb (v : Word) : v.toInt < 0 ↔ v.msb = true := by
  rw [BitVec.msb_eq_toInt, decide_eq_true_iff]

theorem toInt_eq_zero_iff (v : Word) : v.toInt = 0 ↔ v = 0 := by
  rw [← BitVec.toInt_inj]
  rfl

theorem toInt_nonpos_iff (v : Word) : v.toInt ≤ 0 ↔ v.msb = true ∨ v = 0 := by
  rw [← toInt_neg_iff_msb, ← toInt_eq_zero_iff]
  exact le_iff_lt_or_eq

theorem wordAligned_eq_ofNat (v : Word) : wordAligned v = BitVec.ofNat 32 (v.toNat / 4 * 4) := by
  apply BitVec.eq_of_toNat_eq
  have hv := v.isLt
  rw [toNat_wordAligned, BitVec.toNat_ofNat]
  omega

-- ## The 64-bit view of the accumulator (R50) and its halves

theorem toInt_acc64 (s : State) : s.acc64.toInt = s.acc.toInt :=
  BitVec.toInt_signExtend_of_le (by omega)

theorem toInt_highWord (v : BitVec 64) : (v.extractLsb' 32 32).toInt = v.toInt / 2 ^ 32 := by
  have hv := v.isLt
  rw [BitVec.toInt_eq_toNat_cond, BitVec.toInt_eq_toNat_cond, BitVec.extractLsb'_toNat, Nat.shiftRight_eq_div_pow]
  split <;> split <;> omega

/-- Under the sign's copies the view holds the accumulator's bits. -/
theorem toNat_acc64_mod (s : State) : s.acc64.toNat % 2 ^ 56 = s.acc.toNat := by
  have h := toInt_acc64 s
  have hacc := s.acc.isLt
  have hview := s.acc64.isLt
  rw [BitVec.toInt_eq_toNat_cond, BitVec.toInt_eq_toNat_cond] at h
  split at h <;> split at h <;> omega

/-- An integer within 56 bits, signed, is what the accumulator then holds. -/
theorem toInt_ofInt_acc {v : Int} (hlo : -2 ^ 55 ≤ v) (hhi : v < 2 ^ 55) : (BitVec.ofInt 56 v).toInt = v := by
  rw [BitVec.toInt_ofInt, Int.bmod_def]
  split <;> omega

-- ## RAC and RACH (R304, R305)

theorem sub_emod_eq_ediv_mul (t u : Int) : t - t % u = t / u * u := by
  rw [Int.emod_def, mul_comm]
  ring

theorem toInt_roundAcc_word (a : Int) :
    (BitVec.ofInt 56 (roundAcc 0x10000 0x00007FFFFFFF0000 a)).toInt =
      if 0x00007FFFFFFF0000 < a * 2 + 0x8000 then 0x00007FFFFFFF0000
      else if a * 2 + 0x8000 < -2 ^ 47 then -2 ^ 47 else (a * 2 + 0x8000) / 2 ^ 16 * 2 ^ 16 := by
  have hround : roundAcc 0x10000 0x00007FFFFFFF0000 a =
      if 0x00007FFFFFFF0000 < a * 2 + 0x8000 then 0x00007FFFFFFF0000
      else if a * 2 + 0x8000 < -2 ^ 47 then -2 ^ 47 else (a * 2 + 0x8000) / 2 ^ 16 * 2 ^ 16 := by
    rw [← sub_emod_eq_ediv_mul]
    rfl
  rw [toInt_ofInt_acc, hround]
  all_goals
    rw [hround]
    split_ifs <;> omega

theorem toInt_roundAcc_half (a : Int) :
    (BitVec.ofInt 56 (roundAcc 0x100000000 0x00007FFF00000000 a)).toInt =
      if 0x00007FFF00000000 < a * 2 + 0x80000000 then 0x00007FFF00000000
      else if a * 2 + 0x80000000 < -2 ^ 47 then -2 ^ 47 else (a * 2 + 0x80000000) / 2 ^ 32 * 2 ^ 32 := by
  have hround : roundAcc 0x100000000 0x00007FFF00000000 a =
      if 0x00007FFF00000000 < a * 2 + 0x80000000 then 0x00007FFF00000000
      else if a * 2 + 0x80000000 < -2 ^ 47 then -2 ^ 47 else (a * 2 + 0x80000000) / 2 ^ 32 * 2 ^ 32 := by
    rw [← sub_emod_eq_ediv_mul]
    rfl
  rw [toInt_ofInt_acc, hround]
  all_goals
    rw [hround]
    split_ifs <;> omega

end Sys2Proof.Machine

namespace Sys2Proof.Proofs
open Sys2Proof.Machine

/-- Settles O38: each branch's condition is the model's, or its negation. -/
theorem pcRelativeTargets : Obligations.PcRelativeTargets := by
  intro a b p8 p16 p24 s
  refine ⟨goesTo_of_taken_iff rfl Iff.rfl, goesTo_of_taken_iff rfl Iff.rfl, goesTo_of_taken_iff_not rfl ?bnc,
    goesTo_of_taken_iff_not rfl ?bnc, goesTo_of rfl, goesTo_of rfl,
    (goesTo_of_branchAndLink rfl).imp fun _ _ => trivial, (goesTo_of_branchAndLink rfl).imp fun _ _ => trivial,
    goesTo_of_taken_iff rfl beq_iff_eq, goesTo_of_taken_iff_not rfl bne_iff_ne, goesTo_of_taken_iff rfl beq_iff_eq,
    goesTo_of_taken_iff_not rfl bne_iff_ne, goesTo_of_taken_iff rfl ?bltz, goesTo_of_taken_iff_not rfl ?bgez,
    goesTo_of_taken_iff rfl ?blez, goesTo_of_taken_iff_not rfl ?bgtz⟩
  case bnc => simp
  case bltz => rw [decide_eq_true_iff, toInt_neg_iff_msb]
  case bgez => rw [decide_eq_true_iff, ← toInt_neg_iff_msb, not_lt]
  case blez => rw [decide_eq_true_iff, toInt_nonpos_iff]
  case bgtz => rw [decide_eq_true_iff, ← toInt_nonpos_iff, not_le]

/-- Settles O39. -/
theorem returnAddress : Obligations.ReturnAddress := fun _ _ _ _ =>
  ⟨goesTo_of_branchAndLink rfl, goesTo_of_branchAndLink rfl, goesTo_of_branchAndLink rfl⟩

/-- Settles O40. -/
theorem jumpAndNop : Obligations.JumpAndNop := by
  intro r s
  rw [← wordAligned_eq_ofNat]
  exact ⟨goesTo_of rfl, completes_of rfl rfl (frame_pc s s.pc s.draws []) trivial⟩

/-- Settles O41. -/
theorem accumulatorProducts : Obligations.AccumulatorProducts := by
  intro a b s
  rw [← toInt_acc64]
  exact ⟨writesAcc_of rfl, writesAcc_of rfl, writesAcc_of rfl, writesAcc_of rfl, writesAcc_of rfl, writesAcc_of rfl,
    writesAcc_of rfl, writesAcc_of rfl⟩

/-- Settles O42. -/
theorem accumulatorMoves : Obligations.AccumulatorMoves := by
  intro r s
  have hacc := s.acc.isLt
  have hreg := (s.reg r).isLt
  have hview := toNat_acc64_mod s
  refine ⟨(writesReg_of rfl).imp fun t ht => ?high, (writesReg_of rfl).imp fun t ht => ?low,
    (writesReg_of rfl).imp fun t ht => ?middle, completes_of rfl rfl (frame_acc s _ s.draws) ?toHigh,
    completes_of rfl rfl (frame_acc s _ s.draws) ?toLow⟩
  case high => rw [ht, toInt_highWord, toInt_acc64]
  case low =>
    rw [ht, BitVec.extractLsb'_toNat, Nat.shiftRight_zero]
    omega
  case middle =>
    rw [ht, BitVec.extractLsb'_toNat, Nat.shiftRight_eq_div_pow]
    omega
  case toHigh =>
    rw [advance_acc, BitVec.toNat_append, BitVec.extractLsb'_toNat, BitVec.extractLsb'_toNat, Nat.shiftRight_zero,
      Nat.shiftRight_zero, ← Nat.shiftLeft_add_eq_or_of_lt (Nat.mod_lt _ (by norm_num)), Nat.shiftLeft_eq]
  case toLow =>
    rw [advance_acc, BitVec.toNat_append, BitVec.extractLsb'_toNat, ← Nat.shiftLeft_add_eq_or_of_lt hreg,
      Nat.shiftLeft_eq, Nat.shiftRight_eq_div_pow]
    omega

/-- Settles O43. -/
theorem accumulatorRounds : Obligations.AccumulatorRounds := by
  intro s
  rw [← toInt_acc64]
  exact ⟨(writesAcc_of rfl).imp fun t ht => ht ▸ toInt_roundAcc_word _,
    (writesAcc_of rfl).imp fun t ht => ht ▸ toInt_roundAcc_half _⟩

end Sys2Proof.Proofs
end

section
/-! SUPPORT. The words, operand classes and results of the floating-point instructions (46_float_common.md), as rules
that the proofs of the families 46 and 47 use. -/

namespace Sys2Proof.Machine

-- ## A word is its sign, exponent and fraction (R321)

theorem fpFraction_lt (w : Word) : fpFraction w < 2 ^ 23 := (w.extractLsb' 0 23).isLt

theorem toNat_eq_fields (w : Word) :
    w.toNat = (fpSign w).toNat * 2 ^ 31 + fpExponent w * 2 ^ 23 + fpFraction w := by
  have hw := w.isLt
  have hsign : (fpSign w).toNat = w.toNat / 2 ^ 31 := by
    rw [fpSign, BitVec.getLsbD, Nat.toNat_testBit]
    omega
  rw [hsign, fpExponent, fpFraction, BitVec.extractLsb'_toNat, BitVec.extractLsb'_toNat, Nat.shiftRight_eq_div_pow,
    Nat.shiftRight_zero]
  omega

theorem eq_of_fields {v w : Word} (hs : fpSign v = fpSign w) (he : fpExponent v = fpExponent w)
    (hf : fpFraction v = fpFraction w) : v = w := by
  apply BitVec.eq_of_toNat_eq
  rw [toNat_eq_fields v, toNat_eq_fields w, hs, he, hf]

/-- The fields of a word told by its parts. -/
theorem fields_append (s : Bool) (e : BitVec 8) (f : BitVec 23) :
    fpSign (BitVec.ofBool s ++ e ++ f) = s ∧ fpExponent (BitVec.ofBool s ++ e ++ f) = e.toNat ∧
      fpFraction (BitVec.ofBool s ++ e ++ f) = f.toNat := by
  refine ⟨?_, congrArg BitVec.toNat ?_, congrArg BitVec.toNat ?_⟩
  · show BitVec.getLsbD (w := 1 + 8 + 23) _ 31 = s
    simp only [BitVec.getLsbD_append, BitVec.getLsbD_ofBool]
    simp
  · apply BitVec.eq_of_getLsbD_eq
    intro k hk
    show BitVec.getLsbD (BitVec.extractLsb' (n := 1 + 8 + 23) 23 8 _) k = _
    simp only [BitVec.getLsbD_extractLsb', BitVec.getLsbD_append]
    simp [hk]
  · apply BitVec.eq_of_getLsbD_eq
    intro k hk
    show BitVec.getLsbD (BitVec.extractLsb' (n := 1 + 8 + 23) 0 23 _) k = _
    simp only [BitVec.getLsbD_extractLsb', BitVec.getLsbD_append]
    simp [hk]

-- ## Classes (R322)

theorem fpClass_eq_zero_iff (w : Word) : fpClass w = .zero ↔ fpExponent w = 0 ∧ fpFraction w = 0 := by
  unfold fpClass; split_ifs <;> simp_all

theorem fpClass_eq_normal_iff (w : Word) : fpClass w = .normal ↔ fpExponent w ≠ 0 ∧ fpExponent w ≠ 255 := by
  unfold fpClass; split_ifs <;> simp_all

theorem fpClass_eq_inf_iff (w : Word) : fpClass w = .inf ↔ fpExponent w = 255 ∧ fpFraction w = 0 := by
  unfold fpClass; split_ifs <;> simp_all

theorem fpIsNan_eq_false_iff (w : Word) : fpIsNan w = false ↔ fpClass w ≠ .qnan ∧ fpClass w ≠ .snan := by
  simp [fpIsNan]

theorem fpIsNan_eq_true_iff (w : Word) : fpIsNan w = true ↔ fpClass w = .qnan ∨ fpClass w = .snan := by
  simp [fpIsNan]

@[simp] theorem fpClass_signedZero (neg : Bool) : fpClass (signedZero neg) = .zero := by cases neg <;> decide
@[simp] theorem fpSign_signedZero (neg : Bool) : fpSign (signedZero neg) = neg := by cases neg <;> decide
@[simp] theorem fpClass_signedInf (neg : Bool) : fpClass (signedInf neg) = .inf := by cases neg <;> decide
@[simp] theorem fpSign_signedInf (neg : Bool) : fpSign (signedInf neg) = neg := by cases neg <;> decide
theorem fpClass_invalidNan : fpClass invalidNan = .qnan := by decide

theorem eq_signedZero {w : Word} (h : fpClass w = .zero) : w = signedZero (fpSign w) := by
  obtain ⟨he, hf⟩ := (fpClass_eq_zero_iff w).mp h
  obtain ⟨he', hf'⟩ := (fpClass_eq_zero_iff _).mp (fpClass_signedZero (fpSign w))
  exact eq_of_fields (fpSign_signedZero _).symm (he.trans he'.symm) (hf.trans hf'.symm)

theorem eq_signedInf {w : Word} (h : fpClass w = .inf) : w = signedInf (fpSign w) := by
  obtain ⟨he, hf⟩ := (fpClass_eq_inf_iff w).mp h
  obtain ⟨he', hf'⟩ := (fpClass_eq_inf_iff _).mp (fpClass_signedInf (fpSign w))
  exact eq_of_fields (fpSign_signedInf _).symm (he.trans he'.symm) (hf.trans hf'.symm)

theorem fpValue_of_zero {w : Word} (h : fpClass w = .zero) : fpValue w = 0 := by
  obtain ⟨he, hf⟩ := (fpClass_eq_zero_iff w).mp h
  simp [fpValue, fpMagnitude, he, hf]

-- ## Inverting the sign, quieting a NaN

@[simp] theorem fpSign_flipSign (w : Word) : fpSign (flipSign w) = !fpSign w := by
  rw [fpSign, flipSign, BitVec.getLsbD_xor]
  exact Bool.xor_true _

@[simp] theorem fpExponent_flipSign (w : Word) : fpExponent (flipSign w) = fpExponent w := by
  rw [fpExponent, flipSign, BitVec.extractLsb'_xor]
  exact congrArg BitVec.toNat BitVec.xor_zero

@[simp] theorem fpFraction_flipSign (w : Word) : fpFraction (flipSign w) = fpFraction w := by
  rw [fpFraction, flipSign, BitVec.extractLsb'_xor]
  exact congrArg BitVec.toNat BitVec.xor_zero

@[simp] theorem fpClass_flipSign (w : Word) : fpClass (flipSign w) = fpClass w := by
  have hbit : (flipSign w).getLsbD 22 = w.getLsbD 22 := by
    rw [flipSign, BitVec.getLsbD_xor]
    exact Bool.xor_false _
  rw [fpClass, fpClass, fpExponent_flipSign, fpFraction_flipSign, hbit]

theorem fpClass_quiet {w : Word} (h : fpClass w = .snan) : fpClass (quiet w) = .qnan := by
  have hexp : fpExponent (quiet w) = fpExponent w := by
    rw [fpExponent, quiet, BitVec.extractLsb'_or]
    exact congrArg BitVec.toNat BitVec.or_zero
  have hbit : (quiet w).getLsbD 22 = true := by
    rw [quiet, BitVec.getLsbD_or]
    exact Bool.or_true _
  have hfrac : fpFraction (quiet w) ≠ 0 := by
    intro hzero
    have hb : ((quiet w).extractLsb' 0 23).getLsbD 22 = true := by
      rw [BitVec.getLsbD_extractLsb', Nat.zero_add, hbit]
      rfl
    have hz : (quiet w).extractLsb' 0 23 = 0#23 := BitVec.eq_of_toNat_eq hzero
    rw [hz] at hb
    exact absurd hb (by decide)
  have h255 : fpExponent w = 255 := by
    unfold fpClass at h
    split_ifs at h with h0 _ h255
    exact h255
  rw [fpClass, hexp, if_neg (by omega), if_pos h255, if_neg hfrac, if_pos hbit]

/-- The NaN of two operands is a quiet one. -/
theorem fpClass_nan2 {a b : Word} (h : fpIsNan a = true ∨ fpIsNan b = true) : fpClass (nan2 a b) = .qnan := by
  rw [fpIsNan_eq_true_iff, fpIsNan_eq_true_iff] at h
  unfold nan2
  split_ifs with h1 h2 h3 h4
  · exact fpClass_quiet h1.2
  · exact fpClass_quiet h2
  · exact fpClass_quiet h3
  · exact h4
  · tauto

-- ## Denormalized operands (R323)

theorem fpEff_of_not_denormal {fpsr w : Word} (h : fpClass w ≠ .denormal) : fpEff fpsr w = w :=
  if_neg fun hd => h hd.1

theorem fpClass_fpEff (fpsr w : Word) :
    fpClass (fpEff fpsr w) = if fpClass w = .denormal ∧ fpsrDn fpsr then .zero else fpClass w := by
  unfold fpEff
  split_ifs
  · exact fpClass_signedZero _
  · rfl

/-- What the arithmetic sees of an operand that the screening lets pass is no denormalized one. -/
theorem fpClass_fpEff_ne_denormal {fpsr w : Word} (h : fpUnsupported fpsr w = false) :
    fpClass (fpEff fpsr w) ≠ .denormal := by
  rw [fpClass_fpEff]
  split_ifs with hd
  · simp
  · intro hw
    simp [fpUnsupported, hw] at h
    exact hd ⟨hw, h⟩

theorem fpIsNan_fpEff (fpsr w : Word) : fpIsNan (fpEff fpsr w) = fpIsNan w := by
  rw [fpIsNan, fpIsNan, fpClass_fpEff]
  split_ifs with hd
  · rw [hd.1]; rfl
  · rfl

/-- The sign bit alone is the zero of that sign. -/
theorem and_signBit (w : Word) : w &&& 0x80000000#32 = signedZero (fpSign w) := by
  have hz : fpSign (w &&& 0x80000000#32) = fpSign w := by
    rw [fpSign, BitVec.getLsbD_and]
    exact Bool.and_true _
  have he : fpExponent (w &&& 0x80000000#32) = 0 := by
    rw [fpExponent, BitVec.extractLsb'_and]
    exact congrArg BitVec.toNat BitVec.and_zero
  have hf : fpFraction (w &&& 0x80000000#32) = 0 := by
    rw [fpFraction, BitVec.extractLsb'_and]
    exact congrArg BitVec.toNat BitVec.and_zero
  rw [eq_signedZero ((fpClass_eq_zero_iff _).mpr ⟨he, hf⟩), hz]

theorem fpEff_eq_flushedOperand (fpsr w : Word) : fpEff fpsr w = flushedOperand fpsr w := by
  rw [flushedOperand, and_signBit]
  rfl

-- ## Sets of exceptions

theorem forced_union (x y : FpExceptions) (fpsr : Word) :
    (x.union y).forced fpsr = (x.forced fpsr || y.forced fpsr) := by
  simp only [FpExceptions.forced, FpExceptions.union, Bool.and_or_distrib_right]
  ac_rfl

@[simp] theorem union_noExceptions (x : FpExceptions) : x.union noExceptions = x := by
  simp [FpExceptions.union, noExceptions]

@[simp] theorem noExceptions_union (x : FpExceptions) : noExceptions.union x = x := by
  simp [FpExceptions.union, noExceptions]

-- ## The operations as screening, then arithmetic (R334)

theorem addCore_eq (fpsr a b : Word) (mode : RoundMode) (negate : Bool) :
    addCore fpsr a b mode negate = (screenOperands fpsr a b).getD
      (addArith fpsr (fpEff fpsr a) (if negate then flipSign (fpEff fpsr b) else fpEff fpsr b) mode) := by
  unfold addCore
  cases screenOperands fpsr a b <;> rfl

theorem mulCore_eq (fpsr a b : Word) (mode : RoundMode) :
    mulCore fpsr a b mode =
      (screenOperands fpsr a b).getD (mulArith fpsr (fpEff fpsr a) (fpEff fpsr b) mode) := by
  unfold mulCore
  cases screenOperands fpsr a b <;> rfl

theorem divCore_eq (fpsr a b : Word) (mode : RoundMode) :
    divCore fpsr a b mode =
      (screenOperands fpsr a b).getD (divArith fpsr (fpEff fpsr a) (fpEff fpsr b) mode) := by
  unfold divCore
  cases screenOperands fpsr a b <;> rfl

theorem screenOperands_of_snan {fpsr a b : Word} (h : fpClass a = .snan ∨ fpClass b = .snan) :
    screenOperands fpsr a b = some (invalid (nan2 a b)) := if_pos h

theorem screenOperands_of_qnan {fpsr a b : Word} (h : ¬ (fpClass a = .snan ∨ fpClass b = .snan))
    (hq : fpClass a = .qnan ∨ fpClass b = .qnan) : screenOperands fpsr a b = some (exactly (nan2 a b)) :=
  (if_neg h).trans (if_pos hq)

theorem screenOperands_of_not_nan {fpsr a b : Word} (ha : fpIsNan a = false) (hb : fpIsNan b = false) :
    screenOperands fpsr a b =
      if fpUnsupported fpsr a || fpUnsupported fpsr b then some unimplemented else none := by
  rw [fpIsNan_eq_false_iff] at ha hb
  exact (if_neg (by tauto)).trans (if_neg (by tauto))

section Induction
variable {fpsr : Word} {P : FpResult → Prop}

/-- A property of a screened operation: of its NaNs, of UIPL (raised with DN = 0 only) and of its arithmetic. -/
theorem screened_induction (a b : Word) {r : FpResult} (hexact : ∀ v, P (exactly v)) (hinvalid : ∀ v, P (invalid v))
    (hunimpl : fpsrDn fpsr = false → P unimplemented) (harith : P r) : P ((screenOperands fpsr a b).getD r) := by
  rcases hs : screenOperands fpsr a b with _ | x
  · exact harith
  · rcases screenOperands_some hs with ⟨rfl, _⟩ | ⟨rfl, _⟩ | ⟨rfl, _, _, hdn, _⟩
    · exact hinvalid _
    · exact hexact _
    · exact hunimpl hdn

theorem addArith_induction (a b : Word) (mode : RoundMode) (hexact : ∀ v, P (exactly v))
    (hinvalid : P (invalid invalidNan)) (hdeliver : ∀ q m z, P (deliver fpsr q m z)) :
    P (addArith fpsr a b mode) := by
  unfold addArith
  dsimp only
  split_ifs
  exacts [hexact _, hinvalid, hexact _, hexact _, hexact _, hexact _, hdeliver _ _ _]

theorem mulArith_induction (a b : Word) (mode : RoundMode) (hexact : ∀ v, P (exactly v))
    (hinvalid : P (invalid invalidNan)) (hdeliver : ∀ q m z, P (deliver fpsr q m z)) :
    P (mulArith fpsr a b mode) := by
  unfold mulArith
  dsimp only
  split_ifs
  exacts [hinvalid, hexact _, hexact _, hdeliver _ _ _]

theorem divArith_induction (a b : Word) (mode : RoundMode) (hexact : ∀ v, P (exactly v))
    (hinvalid : P (invalid invalidNan)) (hdiv0 : ∀ v, P ⟨some v, { div0 := true }⟩)
    (hdeliver : ∀ q m z, P (deliver fpsr q m z)) : P (divArith fpsr a b mode) := by
  unfold divArith
  dsimp only
  split_ifs
  exacts [hinvalid, hexact _, hexact _, hdiv0 _, hdeliver _ _ _]

/-- Step 2 of FMADD and FMSUB adds to step 1's exceptions those of one result: a word, an invalid operation, UIPL (with
DN = 0 only) or a sum. -/
theorem maddStep2_induction (d p : Word) (r1 : FpExceptions) (subtract : Bool) (hexact : ∀ v, P (exactly v))
    (hinvalid : fpClass d = .snan → P (invalid (quiet d))) (hunimpl : fpsrDn fpsr = false → P unimplemented)
    (hadd : ∀ a b m, P (addArith fpsr a b m)) :
    ∃ r2, P r2 ∧ maddStep2 fpsr d p r1 subtract = ⟨r2.val, r1.union r2.raised⟩ := by
  unfold maddStep2
  dsimp only
  split_ifs with h1 h2 h3 h4 h5
  · exact ⟨_, hinvalid h1, rfl⟩
  · exact ⟨_, hexact d, by simp [exactly]⟩
  · exact ⟨_, hexact p, by simp [exactly]⟩
  · exact ⟨_, hunimpl (by simp [fpUnsupported] at h4; exact h4.2), rfl⟩
  · exact ⟨_, hexact _, by simp [exactly]; rfl⟩
  · exact ⟨_, hexact _, by simp [exactly]; rfl⟩
  · exact ⟨_, hadd _ _ _, rfl⟩
  · exact ⟨_, hadd _ _ _, rfl⟩

end Induction

-- ## No word only where the EIT is forced (R340)

/-- The result has no word only where its exceptions force the EIT. -/
def FpResult.WordOrForced (fpsr : Word) (r : FpResult) : Prop := r.val = none → r.raised.forced fpsr = true

theorem wordOrForced_of_some {fpsr v : Word} {x : FpExceptions} : (FpResult.mk (some v) x).WordOrForced fpsr :=
  fun h => nomatch h

theorem wordOrForced_unimplemented {fpsr : Word} : unimplemented.WordOrForced fpsr := fun _ => rfl

theorem wordOrForced_addArith (fpsr a b : Word) (mode : RoundMode) : (addArith fpsr a b mode).WordOrForced fpsr :=
  addArith_induction a b mode (fun _ => wordOrForced_of_some) wordOrForced_of_some fun _ _ _ => forced_of_deliver

theorem wordOrForced_addCore (fpsr a b : Word) (mode : RoundMode) (negate : Bool) :
    (addCore fpsr a b mode negate).WordOrForced fpsr := by
  rw [addCore_eq]
  exact screened_induction a b (fun _ => wordOrForced_of_some) (fun _ => wordOrForced_of_some)
    (fun _ => wordOrForced_unimplemented) (wordOrForced_addArith _ _ _ _)

theorem wordOrForced_mulCore (fpsr a b : Word) (mode : RoundMode) : (mulCore fpsr a b mode).WordOrForced fpsr := by
  rw [mulCore_eq]
  exact screened_induction a b (fun _ => wordOrForced_of_some) (fun _ => wordOrForced_of_some)
    (fun _ => wordOrForced_unimplemented) (mulArith_induction _ _ mode (fun _ => wordOrForced_of_some)
      wordOrForced_of_some fun _ _ _ => forced_of_deliver)

theorem wordOrForced_divCore (fpsr a b : Word) (mode : RoundMode) : (divCore fpsr a b mode).WordOrForced fpsr := by
  rw [divCore_eq]
  exact screened_induction a b (fun _ => wordOrForced_of_some) (fun _ => wordOrForced_of_some)
    (fun _ => wordOrForced_unimplemented) (divArith_induction _ _ mode (fun _ => wordOrForced_of_some)
      wordOrForced_of_some (fun _ => wordOrForced_of_some) fun _ _ _ => forced_of_deliver)

theorem wordOrForced_floatOfInteger (fpsr : Word) (n : Int) : (floatOfInteger fpsr n).WordOrForced fpsr := by
  unfold floatOfInteger
  split_ifs
  exacts [wordOrForced_of_some, wordOrForced_of_some]

theorem wordOrForced_integerOfFloat (fpsr w : Word) (limit : Int) :
    (integerOfFloat fpsr w limit).WordOrForced fpsr := by
  unfold integerOfFloat
  dsimp only
  split
  case h_4 => split_ifs; exacts [wordOrForced_of_some, wordOrForced_unimplemented]
  case h_6 => split_ifs <;> exact wordOrForced_of_some
  all_goals exact wordOrForced_of_some

theorem wordOrForced_compareCore (fpsr a b : Word) (quietInvalid : Bool) (free : Word) :
    (compareCore fpsr a b quietInvalid free).WordOrForced fpsr := by
  unfold compareCore
  split_ifs
  exacts [wordOrForced_of_some, wordOrForced_of_some, wordOrForced_of_some, wordOrForced_unimplemented,
    wordOrForced_of_some]

-- ## The two steps of FMADD and FMSUB (R365)

theorem maddCore_of_forced {fpsr d a b : Word} (subtract : Bool)
    (hf : (mulCore fpsr a b .towardZero).raised.forced fpsr = true) :
    maddCore fpsr d a b subtract = ⟨none, (mulCore fpsr a b .towardZero).raised.union (addendExceptions fpsr d)⟩ := by
  rw [maddCore]
  split
  · next hf' => rw [hf] at hf'; exact absurd hf' (by decide)
  · rfl

theorem maddCore_of_word {fpsr d a b p : Word} {x : FpExceptions} (subtract : Bool)
    (h : mulCore fpsr a b .towardZero = ⟨some p, x⟩) (hf : x.forced fpsr = false) :
    maddCore fpsr d a b subtract = maddStep2 fpsr d p x subtract := by
  rw [maddCore]
  rw [h]
  dsimp only
  rw [hf]

/-- Step 1 forces the EIT or leaves a product. -/
theorem mulCore_forced_or_word (fpsr a b : Word) (mode : RoundMode) :
    (mulCore fpsr a b mode).raised.forced fpsr = true ∨
      ∃ p x, mulCore fpsr a b mode = ⟨some p, x⟩ ∧ x.forced fpsr = false := by
  rcases hf : (mulCore fpsr a b mode).raised.forced fpsr with _ | _
  · rcases hv : (mulCore fpsr a b mode).val with _ | p
    · rw [wordOrForced_mulCore fpsr a b mode hv] at hf
      exact absurd hf (by decide)
    · exact .inr ⟨p, _, by rw [← hv], hf⟩
  · exact .inl rfl

theorem wordOrForced_maddCore (fpsr d a b : Word) (subtract : Bool) :
    (maddCore fpsr d a b subtract).WordOrForced fpsr := by
  rcases mulCore_forced_or_word fpsr a b .towardZero with hf | ⟨p, x, hp, hx⟩
  · rw [maddCore_of_forced subtract hf]
    intro _
    rw [forced_union, hf, Bool.true_or]
  · rw [maddCore_of_word subtract hp hx]
    obtain ⟨r2, hr2, heq⟩ := maddStep2_induction (fpsr := fpsr) (P := FpResult.WordOrForced fpsr) d p x subtract
      (fun _ => wordOrForced_of_some) (fun _ => wordOrForced_of_some) (fun _ => wordOrForced_unimplemented)
      (wordOrForced_addArith fpsr)
    rw [heq]
    intro hv
    rw [forced_union, hr2 hv, Bool.or_true]

end Sys2Proof.Machine

namespace Sys2Proof.Proofs
open Sys2Proof.Machine

/-- Settles O44: no procedure is without a word unless its exceptions force the EIT. -/
theorem fpuFrame : Obligations.FpuFrame := fun _ _ _ s =>
  ⟨fpuEnds_of (n := s.draws) rfl (wordOrForced_addCore _ _ _ _ _),
    fpuEnds_of (n := s.draws) rfl (wordOrForced_addCore _ _ _ _ _),
    fpuEnds_of (n := s.draws) rfl (wordOrForced_mulCore _ _ _ _),
    fpuEnds_of (n := s.draws) rfl (wordOrForced_divCore _ _ _ _),
    fpuEnds_of (n := s.draws) rfl (wordOrForced_maddCore _ _ _ _ _),
    fpuEnds_of (n := s.draws) rfl (wordOrForced_maddCore _ _ _ _ _),
    fpuEnds_of (n := s.draws) rfl (wordOrForced_floatOfInteger _ _),
    fpuEnds_of (n := s.draws) rfl (wordOrForced_floatOfInteger _ _),
    fpuEnds_of (n := s.draws) rfl (wordOrForced_integerOfFloat _ _ _),
    fpuEnds_of (n := s.draws) rfl (wordOrForced_integerOfFloat _ _ _),
    ⟨_, fpuEnds_of (n := s.draws + 1) rfl (wordOrForced_compareCore _ _ _ _ (Config.fcmpBits s.draws))⟩,
    ⟨_, fpuEnds_of (n := s.draws + 1) rfl (wordOrForced_compareCore _ _ _ _ (Config.fcmpBits s.draws))⟩⟩

end Sys2Proof.Proofs
end

section
/-! PROOFS of the families 46_float_common.md and 47_float_instructions.md that need no rounding: masked exceptions,
comparisons, NaN, division by zero, denormalized operands. -/

namespace Sys2Proof.Machine

-- ## With DN = 1 nothing is unimplemented

/-- The set has no UIPL. -/
def FpResult.Implemented (r : FpResult) : Prop := r.raised.uipl = false

section Implemented
variable {fpsr : Word} (hdn : fpsrDn fpsr = true)
include hdn

theorem implemented_deliver (q : ℚ) (mode : RoundMode) (zsign : Bool) : (deliver fpsr q mode zsign).Implemented := by
  rcases deliver_cases fpsr q mode zsign with ⟨_, e⟩ | ⟨_, _, _, e⟩ | ⟨_, _, _, _, e⟩ | ⟨_, _, _, hdn', _⟩ |
    ⟨_, _, _, e⟩ | ⟨_, _, _, e⟩ | ⟨_, _, e⟩
  case inr.inr.inr.inl => rw [hdn] at hdn'; exact absurd hdn' (by decide)
  all_goals rw [e]; rfl

theorem implemented_addArith (a b : Word) (mode : RoundMode) : (addArith fpsr a b mode).Implemented :=
  addArith_induction a b mode (fun _ => rfl) rfl (implemented_deliver hdn)

theorem of_dn_false {p : Prop} (h : fpsrDn fpsr = false) : p := by
  rw [hdn] at h
  exact absurd h (by decide)

theorem implemented_addCore (a b : Word) (mode : RoundMode) (negate : Bool) :
    (addCore fpsr a b mode negate).Implemented := by
  rw [addCore_eq]
  exact screened_induction a b (fun _ => rfl) (fun _ => rfl) (of_dn_false hdn) (implemented_addArith hdn _ _ _)

theorem implemented_mulCore (a b : Word) (mode : RoundMode) : (mulCore fpsr a b mode).Implemented := by
  rw [mulCore_eq]
  exact screened_induction a b (fun _ => rfl) (fun _ => rfl) (of_dn_false hdn)
    (mulArith_induction _ _ mode (fun _ => rfl) rfl (implemented_deliver hdn))

theorem implemented_divCore (a b : Word) (mode : RoundMode) : (divCore fpsr a b mode).Implemented := by
  rw [divCore_eq]
  exact screened_induction a b (fun _ => rfl) (fun _ => rfl) (of_dn_false hdn)
    (divArith_induction _ _ mode (fun _ => rfl) rfl (fun _ => rfl) (implemented_deliver hdn))

theorem fpUnsupported_of_dn (w : Word) : fpUnsupported fpsr w = false := by
  rw [fpUnsupported, hdn, Bool.not_true, Bool.and_false]

theorem implemented_maddCore (d a b : Word) (subtract : Bool) : (maddCore fpsr d a b subtract).Implemented := by
  have hstep1 : (mulCore fpsr a b .towardZero).raised.uipl = false := implemented_mulCore hdn a b .towardZero
  rcases mulCore_forced_or_word fpsr a b .towardZero with hf | ⟨p, x, hp, hx⟩
  · rw [maddCore_of_forced subtract hf]
    have haddend : (addendExceptions fpsr d).uipl = false := by
      rw [addendExceptions, fpUnsupported_of_dn hdn, if_neg Bool.false_ne_true]
      split_ifs <;> rfl
    exact Bool.or_eq_false_iff.mpr ⟨hstep1, haddend⟩
  · rw [maddCore_of_word subtract hp hx]
    obtain ⟨r2, hr2, heq⟩ := maddStep2_induction (fpsr := fpsr) (P := FpResult.Implemented) d p x subtract
      (fun _ => rfl) (fun _ => rfl) (of_dn_false hdn) (implemented_addArith hdn)
    rw [heq]
    rw [hp] at hstep1
    exact Bool.or_eq_false_iff.mpr ⟨hstep1, hr2⟩

theorem implemented_integerOfFloat (w : Word) (limit : Int) : (integerOfFloat fpsr w limit).Implemented := by
  unfold integerOfFloat
  dsimp only
  split
  case h_4 => rw [hdn]; rfl
  case h_6 => split_ifs <;> rfl
  all_goals rfl

theorem implemented_compareCore (a b : Word) (quietInvalid : Bool) (free : Word) :
    (compareCore fpsr a b quietInvalid free).Implemented := by
  unfold compareCore
  rw [fpUnsupported_of_dn hdn, fpUnsupported_of_dn hdn, Bool.or_self, if_neg Bool.false_ne_true]
  split_ifs <;> rfl

end Implemented

theorem implemented_floatOfInteger (fpsr : Word) (n : Int) : (floatOfInteger fpsr n).Implemented := by
  unfold floatOfInteger
  split_ifs <;> rfl

/-- With every enable bit 0 and DN = 1, only UIPL forces the EIT. -/
theorem masked_iff {fpsr : Word} (h : fpsr &&& 0x00007D00#32 = 0x00000100#32) :
    fpsrDn fpsr = true ∧ ∀ x : FpExceptions, x.forced fpsr = x.uipl := by
  have hbit (k : Nat) : (fpsr.getLsbD k && (0x00007D00#32).getLsbD k) = (0x00000100#32).getLsbD k := by
    rw [← BitVec.getLsbD_and, h]
  have h8 : fpsr.getLsbD 8 = true := (Bool.and_true _).symm.trans (hbit 8)
  have h10 : fpsr.getLsbD 10 = false := (Bool.and_true _).symm.trans (hbit 10)
  have h11 : fpsr.getLsbD 11 = false := (Bool.and_true _).symm.trans (hbit 11)
  have h12 : fpsr.getLsbD 12 = false := (Bool.and_true _).symm.trans (hbit 12)
  have h13 : fpsr.getLsbD 13 = false := (Bool.and_true _).symm.trans (hbit 13)
  have h14 : fpsr.getLsbD 14 = false := (Bool.and_true _).symm.trans (hbit 14)
  refine ⟨h8, fun x => ?_⟩
  simp only [FpExceptions.forced, fpsrEnables, h10, h11, h12, h13, h14, Bool.and_false, Bool.or_false]

/-- A flag that is raised stays raised. -/
theorem FlagsRaised.keeps {old new : Word} {x : FpExceptions} (h : FlagsRaised old new x) (k : Nat) (hlo : 26 ≤ k)
    (hhi : k ≤ 30) (hold : old.getLsbD k = true) : new.getLsbD k = true := by
  obtain ⟨h30, h29, h28, h27, h26⟩ := h
  obtain rfl | rfl | rfl | rfl | rfl : k = 30 ∨ k = 29 ∨ k = 28 ∨ k = 27 ∨ k = 26 := by omega
  · rw [h30, hold, Bool.true_or]
  · rw [h29, hold, Bool.true_or]
  · rw [h28, hold, Bool.true_or]
  · rw [h27, hold, Bool.true_or]
  · rw [h26, hold, Bool.true_or]

-- ## Comparisons (R371, R372)

/-- The place of a word in the order of the numbers, the infinities at its ends; a denormalized one counts as 0. -/
def extendedValue (w : Word) : WithBot (WithTop ℚ) :=
  if fpClass w = .inf then (if fpSign w then ⊥ else ((⊤ : WithTop ℚ) : WithBot (WithTop ℚ)))
  else (((if fpClass w = .denormal then 0 else fpValue w : ℚ) : WithTop ℚ) : WithBot (WithTop ℚ))

theorem extendedValue_fpEff {fpsr w : Word} (h : fpUnsupported fpsr w = false) :
    extendedValue (fpEff fpsr w) = extendedValue w := by
  by_cases hd : fpClass w = .denormal
  · have hdn : fpsrDn fpsr = true := by simpa [fpUnsupported, hd] using h
    have heff : fpEff fpsr w = signedZero (fpSign w) := if_pos ⟨hd, hdn⟩
    rw [extendedValue, extendedValue, heff, fpClass_signedZero, hd, fpValue_of_zero (fpClass_signedZero _)]
    rfl
  · rw [fpEff_of_not_denormal hd]

/-- The comparison is that of the order. -/
theorem fpCompare_cases {a b : Word} (ha : fpClass a ≠ .denormal) (hb : fpClass b ≠ .denormal) :
    (fpCompare a b = .equal ∧ extendedValue a = extendedValue b) ∨
    (fpCompare a b = .less ∧ extendedValue a < extendedValue b) ∨
    (fpCompare a b = .greater ∧ extendedValue b < extendedValue a) := by
  have hbot (q : ℚ) : (⊥ : WithBot (WithTop ℚ)) < ((q : WithTop ℚ) : WithBot (WithTop ℚ)) := WithBot.bot_lt_coe _
  have hfin (q : ℚ) : ((q : WithTop ℚ) : WithBot (WithTop ℚ)) < ⊤ :=
    WithBot.coe_lt_coe.mpr (WithTop.coe_lt_top q)
  have hval (x y : ℚ) (h : x < y) :
      ((x : WithTop ℚ) : WithBot (WithTop ℚ)) < ((y : WithTop ℚ) : WithBot (WithTop ℚ)) :=
    WithBot.coe_lt_coe.mpr (WithTop.coe_lt_coe.mpr h)
  unfold fpCompare extendedValue
  rw [if_neg ha, if_neg hb]
  by_cases hia : fpClass a = .inf <;> by_cases hib : fpClass b = .inf
  · cases hsa : fpSign a <;> cases hsb : fpSign b <;> simp [hia, hib]
  · cases hsa : fpSign a <;> simp [hia, hib, hfin, hbot]
  · cases hsb : fpSign b <;> simp [hia, hib, hfin, hbot]
  · rcases lt_trichotomy (fpValue a) (fpValue b) with h | h | h
    · simp [hia, hib, h, h.ne, hval]
    · simp [hia, hib, h]
    · simp [hia, hib, h.ne', h.not_gt, h, hval]

theorem fcmpWord_less (free : Word) : (fcmpWord .less free).getLsbD 31 = true := by
  show BitVec.getLsbD (w := 1 + 31) (1#1 ++ free.extractLsb' 0 31) 31 = true
  rw [BitVec.getLsbD_append]
  rfl

/-- The word for unordered: bit 31 is 0 and bits 30:22 are 1. -/
theorem fcmpWord_unordered (free : Word) :
    (fcmpWord .unordered free).getLsbD 31 = false ∧ (fcmpWord .unordered free).extractLsb' 22 9 = 0x1FF#9 := by
  constructor
  · show BitVec.getLsbD (w := 10 + 22) (0x1FF#10 ++ free.extractLsb' 0 22) 31 = false
    rw [BitVec.getLsbD_append]
    rfl
  · apply BitVec.eq_of_getLsbD_eq
    intro k hk
    show BitVec.getLsbD (BitVec.extractLsb' (n := 10 + 22) 22 9 (0x1FF#10 ++ free.extractLsb' 0 22)) k = _
    rw [BitVec.getLsbD_extractLsb', BitVec.getLsbD_append, if_neg (by omega), decide_eq_true hk, Bool.true_and,
      Nat.add_sub_cancel_left]
    interval_cases k <;> rfl

/-- The word for greater is neither of the others' words. -/
theorem fcmpWord_greater (free : Word) :
    (fcmpWord .greater free).getLsbD 31 = false ∧ fcmpWord .greater free ≠ 0 ∧
      (fcmpWord .greater free).extractLsb' 22 9 ≠ 0x1FF#9 := by
  unfold fcmpWord
  dsimp only
  split_ifs with hlow
  · decide
  · obtain ⟨hzero, hpattern⟩ := not_or.mp hlow
    generalize free.extractLsb' 0 31 = low at hzero hpattern
    have hbits : (0#1 ++ low : BitVec (1 + 31)).extractLsb' 0 31 = low := BitVec.extractLsb'_append_eq_right
    refine ⟨?_, fun h => hzero ?_, fun h => hpattern ?_⟩
    · show BitVec.getLsbD (w := 1 + 31) (0#1 ++ low) 31 = false
      rw [BitVec.getLsbD_append]
      rfl
    · rw [← hbits]
      exact congrArg (BitVec.extractLsb' 0 31) h
    · rw [← h]
      apply BitVec.eq_of_getLsbD_eq
      intro k hk
      show _ = BitVec.getLsbD (BitVec.extractLsb' (n := 1 + 31) 22 9 (0#1 ++ low)) k
      rw [BitVec.getLsbD_extractLsb', BitVec.getLsbD_extractLsb', BitVec.getLsbD_append, if_pos (by omega)]

-- ## NaN and invalid operations (R333, R331)

/-- Its IVLD is that of an invalid operation without a NaN operand. -/
def FpResult.InvalidIsNan (r : FpResult) : Prop := r.raised.ivld = true → r = invalid invalidNan

theorem invalidIsNan_exactly (v : Word) : (exactly v).InvalidIsNan := fun h => nomatch h

theorem invalidIsNan_deliver (fpsr : Word) (q : ℚ) (mode : RoundMode) (zsign : Bool) :
    (deliver fpsr q mode zsign).InvalidIsNan := by
  rcases deliver_cases fpsr q mode zsign with ⟨_, e⟩ | ⟨_, _, _, e⟩ | ⟨_, _, _, _, e⟩ | ⟨_, _, _, _, e⟩ |
    ⟨_, _, _, e⟩ | ⟨_, _, _, e⟩ | ⟨_, _, e⟩ <;> rw [e] <;> exact fun h => nomatch h

theorem invalidIsNan_addArith (fpsr a b : Word) (mode : RoundMode) : (addArith fpsr a b mode).InvalidIsNan :=
  addArith_induction a b mode invalidIsNan_exactly (fun _ => rfl) (invalidIsNan_deliver fpsr)

theorem invalidIsNan_mulArith (fpsr a b : Word) (mode : RoundMode) : (mulArith fpsr a b mode).InvalidIsNan :=
  mulArith_induction a b mode invalidIsNan_exactly (fun _ => rfl) (invalidIsNan_deliver fpsr)

theorem invalidIsNan_divArith (fpsr a b : Word) (mode : RoundMode) : (divArith fpsr a b mode).InvalidIsNan :=
  divArith_induction a b mode invalidIsNan_exactly (fun _ => rfl) (fun _ h => nomatch h) (invalidIsNan_deliver fpsr)

/-- The operands without a NaN end in UIPL or in the arithmetic. -/
theorem invalidIsNan_screened {fpsr a b : Word} {r : FpResult} (ha : fpIsNan a = false) (hb : fpIsNan b = false)
    (hr : r.InvalidIsNan) : ((screenOperands fpsr a b).getD r).InvalidIsNan := by
  rw [screenOperands_of_not_nan ha hb]
  split_ifs
  · exact fun h => nomatch h
  · exact hr

theorem nan2_of_snan_right {a b : Word} (hb : fpClass b = .snan) : nan2 a b = quiet b := by
  unfold nan2
  split_ifs <;> simp_all

theorem nan2_of_snan_left {a b : Word} (ha : fpClass a = .snan) (hb : fpClass b ≠ .snan) : nan2 a b = quiet a := by
  simp [nan2, ha, hb]

theorem nan2_of_qnan_right {a b : Word} (ha : fpClass a ≠ .snan) (hb : fpClass b = .qnan) : nan2 a b = b := by
  simp [nan2, ha, hb]

theorem nan2_of_qnan_left {a b : Word} (ha : fpClass a = .qnan) (hb : fpIsNan b = false) : nan2 a b = a := by
  rw [fpIsNan_eq_false_iff] at hb
  simp [nan2, ha, hb]

/-- An invalid operation forces the EIT exactly with EV = 1. -/
theorem forced_ivld (fpsr : Word) : ({ ivld := true } : FpExceptions).forced fpsr = fpsr.getLsbD 10 := by
  simp [FpExceptions.forced, fpsrEnables]

theorem forced_of_ivld {fpsr : Word} {x : FpExceptions} (hx : x.ivld = true) (hev : fpsr.getLsbD 10 = true) :
    x.forced fpsr = true := by
  simp [FpExceptions.forced, fpsrEnables, hx, hev]

theorem forced_div0 (fpsr : Word) : ({ div0 := true } : FpExceptions).forced fpsr = fpsr.getLsbD 12 := by
  simp [FpExceptions.forced, fpsrEnables]

theorem reg_takeEit {k : EitKind} (s : State) (b : Word) (hk : k ≠ .ei) (q : Reg) :
    (s.takeEit k b).reg q = s.reg q := by
  have hsm : (s.takeEit k b).sm = s.sm := by
    rw [State.sm, takeEit_psw, getLsbD_pswAtEntry]
    simp [hk, State.sm]
  exact reg_congr (takeEit_gprs s k b) (takeEit_spi s k b) (takeEit_spu s k b) hsm q

/-- The FPE entry leaves every register as it was, R15 among them. -/
theorem completeFp_keeps_regs {d : Reg} {r : FpResult} {s : State} (hf : r.raised.forced s.fpsr = true) :
    ∃ t, completeFp d r s = .next t ∧ t.pc = eitEntryAddress s.vectors .fpe ∧ (∀ q, t.reg q = s.reg q) ∧
      CausesAre t.fpsr r.raised := by
  have hexec : completeFp d r s =
      .next (({ s with fpsr := fpsrWithCauses s.fpsr r.raised } : State).takeEit .fpe (s.pc + 4)) := by
    rw [completeFp, hf]
    split
    · next h => exact nomatch h
    · rfl
  have hcauses := causesAre_fpsrWithCauses s.fpsr r.raised
  refine ⟨_, hexec, takeEit_pc _ _ _, fun q => ?_, hcauses⟩
  exact (reg_takeEit _ _ (by decide) q).trans (reg_congr rfl rfl rfl rfl q)

/-- The cause bits after an FPU instruction, however it ends. -/
theorem completeFp_causes {d : Reg} {r : FpResult} {s t : State} (h : completeFp d r s = .next t) :
    t.fpsr.getLsbD 2 = r.raised.ivld := by
  rcases completeFp_cases h with ⟨v, _, _, rfl⟩ | ⟨_, rfl⟩
  · rw [advance_fpsr, setReg_fpsr, BitVec.getLsbD_or, getLsbD_fpsrWithCauses, getLsbD_causeBits, getLsbD_flagBits]
    simp
  · rw [takeEit_fpsr, getLsbD_fpsrWithCauses, getLsbD_causeBits]
    simp

-- ## Division by zero (R330)

/-- The set has no DIV0. -/
def FpResult.NoDiv0 (r : FpResult) : Prop := r.raised.div0 = false

theorem noDiv0_deliver (fpsr : Word) (q : ℚ) (mode : RoundMode) (zsign : Bool) :
    (deliver fpsr q mode zsign).NoDiv0 := by
  rcases deliver_cases fpsr q mode zsign with ⟨_, e⟩ | ⟨_, _, _, e⟩ | ⟨_, _, _, _, e⟩ | ⟨_, _, _, _, e⟩ |
    ⟨_, _, _, e⟩ | ⟨_, _, _, e⟩ | ⟨_, _, e⟩ <;> rw [e] <;> rfl

theorem noDiv0_addArith (fpsr a b : Word) (mode : RoundMode) : (addArith fpsr a b mode).NoDiv0 :=
  addArith_induction a b mode (fun _ => rfl) rfl (noDiv0_deliver fpsr)

theorem noDiv0_addCore (fpsr a b : Word) (mode : RoundMode) (negate : Bool) :
    (addCore fpsr a b mode negate).NoDiv0 := by
  rw [addCore_eq]
  exact screened_induction a b (fun _ => rfl) (fun _ => rfl) (fun _ => rfl) (noDiv0_addArith _ _ _ _)

theorem noDiv0_mulCore (fpsr a b : Word) (mode : RoundMode) : (mulCore fpsr a b mode).NoDiv0 := by
  rw [mulCore_eq]
  exact screened_induction a b (fun _ => rfl) (fun _ => rfl) (fun _ => rfl)
    (mulArith_induction _ _ mode (fun _ => rfl) rfl (noDiv0_deliver fpsr))

theorem noDiv0_maddCore (fpsr d a b : Word) (subtract : Bool) : (maddCore fpsr d a b subtract).NoDiv0 := by
  have hstep1 : (mulCore fpsr a b .towardZero).raised.div0 = false := noDiv0_mulCore fpsr a b .towardZero
  rcases mulCore_forced_or_word fpsr a b .towardZero with hf | ⟨p, x, hp, hx⟩
  · rw [maddCore_of_forced subtract hf]
    have haddend : (addendExceptions fpsr d).div0 = false := by
      rw [addendExceptions]
      split_ifs <;> rfl
    exact Bool.or_eq_false_iff.mpr ⟨hstep1, haddend⟩
  · rw [maddCore_of_word subtract hp hx]
    obtain ⟨r2, hr2, heq⟩ := maddStep2_induction (fpsr := fpsr) (P := FpResult.NoDiv0) d p x subtract
      (fun _ => rfl) (fun _ => rfl) (fun _ => rfl) (noDiv0_addArith fpsr)
    rw [heq]
    rw [hp] at hstep1
    exact Bool.or_eq_false_iff.mpr ⟨hstep1, hr2⟩

theorem noDiv0_floatOfInteger (fpsr : Word) (n : Int) : (floatOfInteger fpsr n).NoDiv0 := by
  unfold floatOfInteger
  split_ifs <;> rfl

theorem noDiv0_integerOfFloat (fpsr w : Word) (limit : Int) : (integerOfFloat fpsr w limit).NoDiv0 := by
  unfold integerOfFloat
  dsimp only
  split
  case h_4 => split_ifs <;> rfl
  case h_6 => split_ifs <;> rfl
  all_goals rfl

theorem noDiv0_compareCore (fpsr a b : Word) (quietInvalid : Bool) (free : Word) :
    (compareCore fpsr a b quietInvalid free).NoDiv0 := by
  unfold compareCore
  split_ifs <;> rfl

/-- Operands that are normalized, zero or infinite reach the arithmetic of a division as they are. -/
theorem divCore_of_ordinary {fpsr a b : Word} (mode : RoundMode) (ha : fpIsNan a = false) (hb : fpIsNan b = false)
    (hda : fpClass a ≠ .denormal) (hdb : fpClass b ≠ .denormal) : divCore fpsr a b mode = divArith fpsr a b mode := by
  rw [divCore_eq, screenOperands_of_not_nan ha hb, fpEff_of_not_denormal hda, fpEff_of_not_denormal hdb, if_neg]
  · rfl
  · simp [fpUnsupported, hda, hdb]

section ZeroDivisor
variable {a b : Word} (fpsr : Word) (mode : RoundMode) (hb : fpClass b = .zero)
include hb

theorem divCore_normal_zero (ha : fpClass a = .normal) :
    divCore fpsr a b mode = ⟨some (signedInf (fpSign a ^^ fpSign b)), { div0 := true }⟩ := by
  rw [divCore_of_ordinary] <;> simp [divArith, fpIsNan, ha, hb]

theorem divCore_zero_zero (ha : fpClass a = .zero) : divCore fpsr a b mode = invalid invalidNan := by
  rw [divCore_of_ordinary] <;> simp [divArith, fpIsNan, ha, hb]

theorem divCore_inf_zero (ha : fpClass a = .inf) :
    divCore fpsr a b mode = exactly (signedInf (fpSign a ^^ fpSign b)) := by
  rw [divCore_of_ordinary] <;> simp [divArith, fpIsNan, ha, hb]

end ZeroDivisor

-- ## A denormalized operand with DN = 1 (R323)

/-- An operand replaced by the zero of its sign is screened as before. -/
theorem screenOperands_fpEff {fpsr a b : Word} (hdn : fpsrDn fpsr = true) :
    screenOperands fpsr (fpEff fpsr a) (fpEff fpsr b) = screenOperands fpsr a b := by
  have hnan (w : Word) (hw : fpClass w ≠ .denormal) : fpEff fpsr w = w := fpEff_of_not_denormal hw
  have hzero (w : Word) (hw : fpClass w = .denormal) : fpClass (fpEff fpsr w) = .zero := by
    rw [fpClass_fpEff, if_pos ⟨hw, hdn⟩]
  unfold screenOperands
  simp only [fpUnsupported_of_dn hdn, nan2]
  by_cases ha : fpClass a = .denormal <;> by_cases hb : fpClass b = .denormal
  · simp [hzero, ha, hb]
  · simp [hzero, hnan b hb, ha]
    split_ifs <;> rfl
  · simp [hzero, hnan a ha, hb]
  · rw [hnan a ha, hnan b hb]

theorem fpEff_fpEff (fpsr w : Word) : fpEff fpsr (fpEff fpsr w) = fpEff fpsr w := by
  by_cases h : fpClass w = .denormal ∧ fpsrDn fpsr
  · apply fpEff_of_not_denormal
    rw [fpClass_fpEff, if_pos h]
    decide
  · rw [show fpEff fpsr w = w from if_neg h, show fpEff fpsr w = w from if_neg h]

/-- With DN = 0 a denormalized operand and no NaN ends every operation in UIPL. -/
theorem screenOperands_of_denormal {fpsr a b : Word} (hdn : fpsrDn fpsr = false) (ha : fpIsNan a = false)
    (hb : fpIsNan b = false) (hd : fpClass a = .denormal ∨ fpClass b = .denormal) :
    screenOperands fpsr a b = some unimplemented := by
  rw [screenOperands_of_not_nan ha hb, if_pos]
  rcases hd with hd | hd <;> simp [fpUnsupported, hd, hdn]

-- ## The comparisons by the classes of their operands (R371, R372)

section Compare
variable {fpsr a b : Word} (quietInvalid : Bool) (free : Word)

theorem compareCore_of_snan (h : fpClass a = .snan ∨ fpClass b = .snan) :
    compareCore fpsr a b quietInvalid free = invalid (fcmpWord .unordered free) := if_pos h

theorem compareCore_of_qnan (h : ¬ (fpClass a = .snan ∨ fpClass b = .snan))
    (hq : fpClass a = .qnan ∨ fpClass b = .qnan) :
    compareCore fpsr a b quietInvalid free =
      if quietInvalid then invalid (fcmpWord .unordered free) else exactly (fcmpWord .unordered free) :=
  (if_neg h).trans (if_pos hq)

theorem compareCore_of_not_nan (ha : fpIsNan a = false) (hb : fpIsNan b = false) :
    compareCore fpsr a b quietInvalid free =
      if fpUnsupported fpsr a || fpUnsupported fpsr b then unimplemented
      else exactly (fcmpWord (fpCompare (fpEff fpsr a) (fpEff fpsr b)) free) := by
  rw [fpIsNan_eq_false_iff] at ha hb
  exact (if_neg (by tauto)).trans (if_neg (by tauto))

end Compare

-- ## What FMADD and FMSUB make of NaN (R365)

section MaddNan
variable {fpsr d a b p : Word} {x : FpExceptions} {subtract : Bool}

theorem maddStep2_of_snan (h : fpClass d = .snan) :
    maddStep2 fpsr d p x subtract = ⟨some (quiet d), x.union { ivld := true }⟩ := if_pos h

theorem maddStep2_of_qnan (h : fpClass d = .qnan) : maddStep2 fpsr d p x subtract = ⟨some d, x⟩ :=
  (if_neg (by rw [h]; decide)).trans (if_pos h)

theorem maddStep2_of_product_nan (hd : fpIsNan d = false) (h : fpClass p = .qnan) :
    maddStep2 fpsr d p x subtract = ⟨some p, x⟩ := by
  obtain ⟨hq, hs⟩ := (fpIsNan_eq_false_iff d).mp hd
  exact (if_neg hs).trans ((if_neg hq).trans (if_pos h))

/-- Without a NaN in Rdest or from step 1, IVLD of step 2 is that of an invalid sum. -/
theorem maddStep2_ivld (hd : fpIsNan d = false) (hx : x.ivld = false)
    (h : (maddStep2 fpsr d p x subtract).raised.ivld = true) :
    (maddStep2 fpsr d p x subtract).val = some invalidNan := by
  have hs : fpClass d ≠ .snan := ((fpIsNan_eq_false_iff d).mp hd).2
  obtain ⟨r2, hr2, heq⟩ := maddStep2_induction (fpsr := fpsr) (P := FpResult.InvalidIsNan) d p x subtract
    invalidIsNan_exactly (fun hsnan => absurd hsnan hs) (fun _ h => nomatch h) (invalidIsNan_addArith fpsr)
  rw [heq] at h ⊢
  have hivld : r2.raised.ivld = true := by
    rwa [show (FpResult.mk r2.val (x.union r2.raised)).raised.ivld = (x.ivld || r2.raised.ivld) from rfl, hx,
      Bool.false_or] at h
  rw [hr2 hivld]
  rfl

/-- A NaN operand makes the product a quiet NaN. -/
theorem fpClass_product_nan {mode : RoundMode} (hnan : fpIsNan a = true ∨ fpIsNan b = true)
    (h : mulCore fpsr a b mode = ⟨some p, x⟩) : fpClass p = .qnan := by
  have hval : (mulCore fpsr a b mode).val = some (nan2 a b) := by
    rw [mulCore_eq]
    by_cases hs : fpClass a = .snan ∨ fpClass b = .snan
    · rw [screenOperands_of_snan hs]; rfl
    · rw [screenOperands_of_qnan hs]
      · rfl
      · rw [fpIsNan_eq_true_iff, fpIsNan_eq_true_iff] at hnan
        tauto
  rw [h] at hval
  rw [Option.some.inj hval]
  exact fpClass_nan2 hnan

/-- With EV = 1 an SNaN in any of the three operands forces the EIT. -/
theorem forced_maddCore_of_snan (subtract : Bool) (hev : fpsr.getLsbD 10 = true)
    (h : fpClass d = .snan ∨ fpClass a = .snan ∨ fpClass b = .snan) :
    (maddCore fpsr d a b subtract).raised.forced fpsr = true := by
  rcases mulCore_forced_or_word fpsr a b .towardZero with hf | ⟨p, x, hp, hx⟩
  · rw [maddCore_of_forced subtract hf]
    exact (forced_union _ _ _).trans (by rw [hf, Bool.true_or])
  · rw [maddCore_of_word subtract hp hx]
    rcases h with hd | hab
    · rw [maddStep2_of_snan hd]
      exact forced_of_ivld (Bool.or_true _) hev
    · rw [mulCore_eq, screenOperands_of_snan hab] at hp
      have hivld : x.ivld = true := congrArg (fun r => FpExceptions.ivld (FpResult.raised r)) hp.symm
      rw [forced_of_ivld hivld hev] at hx
      exact absurd hx (by decide)

end MaddNan

end Sys2Proof.Machine

namespace Sys2Proof.Proofs
open Sys2Proof.Machine

/-- Settles O45: with DN = 1 no procedure raises UIPL, and nothing else forces the EIT. -/
theorem fpuMaskedCompletes : Obligations.FpuMaskedCompletes := by
  intro d a b s hmask i hi
  obtain ⟨hdn, hforced⟩ := masked_iff hmask
  obtain ⟨hadd, hsub, hmul, hdiv, hmadd, hmsub, hitof, hutof, hftoi, hftos, ⟨_, hcmp⟩, ⟨_, hcmpe⟩⟩ := fpuFrame d a b s
  have hcompletes {r : FpResult} (hends : FpuEnds i s d r) (himpl : r.Implemented) :
      Completes i s 4 [d] [.fpsr] [] (fun t => FpsrRestKept s.fpsr t.fpsr ∧
        ∀ k, 26 ≤ k → k ≤ 30 → s.fpsr.getLsbD k = true → t.fpsr.getLsbD k = true) := by
    obtain ⟨v, _, hv⟩ := hends.2 ((hforced r.raised).trans himpl)
    exact hv.imp fun t ⟨_, _, hflags, hrest⟩ => ⟨hrest, hflags.keeps⟩
  simp only [List.mem_cons, List.not_mem_nil, or_false] at hi
  rcases hi with rfl | rfl | rfl | rfl | rfl | rfl | rfl | rfl | rfl | rfl | rfl | rfl
  exacts [hcompletes hadd (implemented_addCore hdn _ _ _ _), hcompletes hsub (implemented_addCore hdn _ _ _ _),
    hcompletes hmul (implemented_mulCore hdn _ _ _), hcompletes hdiv (implemented_divCore hdn _ _ _),
    hcompletes hmadd (implemented_maddCore hdn _ _ _ _), hcompletes hmsub (implemented_maddCore hdn _ _ _ _),
    hcompletes hitof (implemented_floatOfInteger _ _), hcompletes hutof (implemented_floatOfInteger _ _),
    hcompletes hftoi (implemented_integerOfFloat hdn _ _), hcompletes hftos (implemented_integerOfFloat hdn _ _),
    hcompletes hcmp (implemented_compareCore hdn _ _ _ _), hcompletes hcmpe (implemented_compareCore hdn _ _ _ _)]

/-- Settles O46. -/
theorem comparisonOrder : Obligations.ComparisonOrder := by
  intro d a b s ha hb hdn extended x y i hi
  obtain ⟨quietInvalid, free, hexec⟩ : ∃ quietInvalid free, exec i s =
      completeFp d (compareCore s.fpsr (s.reg a) (s.reg b) quietInvalid free) { s with draws := s.draws + 1 } := by
    simp only [List.mem_cons, List.not_mem_nil, or_false] at hi
    rcases hi with rfl | rfl
    exacts [⟨false, _, rfl⟩, ⟨true, _, rfl⟩]
  obtain ⟨hua, hub⟩ : fpUnsupported s.fpsr (s.reg a) = false ∧ fpUnsupported s.fpsr (s.reg b) = false := by
    rcases hdn with hdn | ⟨hda, hdb⟩
    · exact ⟨fpUnsupported_of_dn hdn _, fpUnsupported_of_dn hdn _⟩
    · simp [fpUnsupported, hda, hdb]
  rw [compareCore_of_not_nan _ _ ha hb, hua, hub, Bool.or_self, if_neg Bool.false_ne_true] at hexec
  refine ⟨_, fpuCompletes_of hexec (forced_noExceptions _), ?_⟩
  have hcases := fpCompare_cases (fpClass_fpEff_ne_denormal hua) (fpClass_fpEff_ne_denormal hub)
  rw [extendedValue_fpEff hua, extendedValue_fpEff hub] at hcases
  rcases hcases with ⟨hkind, hxy⟩ | ⟨hkind, hxy⟩ | ⟨hkind, hxy⟩ <;> rw [hkind]
  · exact ⟨fun _ => rfl, fun h => absurd hxy h.ne, fun h => absurd hxy h.ne'⟩
  · exact ⟨fun h => absurd h hxy.ne, fun _ => fcmpWord_less free, fun h => absurd h hxy.not_gt⟩
  · exact ⟨fun h => absurd h hxy.ne', fun h => absurd h hxy.not_gt, fun _ => fcmpWord_greater free⟩

/-- Settles O47, class by class. -/
theorem comparisonUnordered : Obligations.ComparisonUnordered := by
  intro d a b s hpc snan qnan unordered
  have hexec (quietInvalid : Bool) : exec (if quietInvalid then .fcmpe d a b else .fcmp d a b) s =
      completeFp d (compareCore s.fpsr (s.reg a) (s.reg b) quietInvalid (Config.fcmpBits s.draws))
        { s with draws := s.draws + 1 } := by
    cases quietInvalid <;> rfl
  have hword := fcmpWord_unordered (Config.fcmpBits s.draws)
  refine ⟨fun hs hev => ?snanMasked, fun hs hev => ?snanTrap, fun hs hq => ?qnanQuiet, fun hs hq hev => ?qnanMasked,
    fun hs hq hev => ?qnanTrap, fun hs hq hd hdn => ?denormal⟩
  case snanMasked =>
    have hcomplete (quietInvalid : Bool) := hexec quietInvalid
    simp only [compareCore_of_snan _ _ hs] at hcomplete
    have hforced := (forced_ivld s.fpsr).trans hev
    exact ⟨⟨_, hword, fpuCompletes_of (hcomplete false) hforced⟩, ⟨_, hword, fpuCompletes_of (hcomplete true) hforced⟩⟩
  case snanTrap =>
    have htrap (quietInvalid : Bool) := hexec quietInvalid
    simp only [compareCore_of_snan _ _ hs] at htrap
    have hforced := (forced_ivld s.fpsr).trans hev
    exact ⟨takesFpe_of hpc (htrap false) (.inr hforced), takesFpe_of hpc (htrap true) (.inr hforced)⟩
  case qnanQuiet =>
    have hcomplete := hexec false
    rw [compareCore_of_qnan _ _ hs hq] at hcomplete
    exact ⟨_, hword, fpuCompletes_of hcomplete (forced_noExceptions _)⟩
  case qnanMasked =>
    have hcomplete := hexec true
    rw [compareCore_of_qnan _ _ hs hq] at hcomplete
    exact ⟨_, hword, fpuCompletes_of hcomplete ((forced_ivld s.fpsr).trans hev)⟩
  case qnanTrap =>
    have htrap := hexec true
    rw [compareCore_of_qnan _ _ hs hq] at htrap
    exact takesFpe_of hpc htrap (.inr ((forced_ivld s.fpsr).trans hev))
  case denormal =>
    have htrap (quietInvalid : Bool) := hexec quietInvalid
    obtain ⟨hsa, hsb⟩ := not_or.mp hs
    obtain ⟨hqa, hqb⟩ := not_or.mp hq
    have hunsupported : (fpUnsupported s.fpsr (s.reg a) || fpUnsupported s.fpsr (s.reg b)) = true := by
      have hoff : fpsrDn s.fpsr = false := hdn
      rcases hd with hd | hd <;> simp [fpUnsupported, hd, hoff]
    simp only [compareCore_of_not_nan _ _ ((fpIsNan_eq_false_iff _).mpr ⟨hqa, hsa⟩)
      ((fpIsNan_eq_false_iff _).mpr ⟨hqb, hsb⟩), hunsupported, if_true] at htrap
    exact ⟨takesFpe_of hpc (htrap false) (.inl rfl), takesFpe_of hpc (htrap true) (.inl rfl)⟩

/-- Settles O48. -/
theorem nanResults : Obligations.NanResults := by
  refine ⟨?operations, ?trap, ?addend⟩
  case operations =>
    intro d a b s x y i hi
    obtain ⟨r, hexec, hinvalid⟩ : ∃ r : FpResult,
        exec i s = completeFp d ((screenOperands s.fpsr x y).getD r) s ∧ r.InvalidIsNan := by
      simp only [List.mem_cons, List.not_mem_nil, or_false] at hi
      rcases hi with rfl | rfl | rfl | rfl
      · exact ⟨_, congrArg (completeFp d · s) (addCore_eq _ _ _ _ _), invalidIsNan_addArith _ _ _ _⟩
      · exact ⟨_, congrArg (completeFp d · s) (addCore_eq _ _ _ _ _), invalidIsNan_addArith _ _ _ _⟩
      · exact ⟨_, congrArg (completeFp d · s) (mulCore_eq _ _ _ _), invalidIsNan_mulArith _ _ _ _⟩
      · exact ⟨_, congrArg (completeFp d · s) (divCore_eq _ _ _ _), invalidIsNan_divArith _ _ _ _⟩
    have hsnan (h : fpClass x = .snan ∨ fpClass y = .snan) : exec i s = completeFp d (invalid (nan2 x y)) s := by
      rw [hexec, screenOperands_of_snan h]
      rfl
    have hqnan (h : ¬ (fpClass x = .snan ∨ fpClass y = .snan)) (hq : fpClass x = .qnan ∨ fpClass y = .qnan) :
        FpuCompletes i s d (nan2 x y) noExceptions := by
      refine fpuCompletes_of (n := s.draws) ?_ (forced_noExceptions _)
      rw [hexec, screenOperands_of_qnan h hq]
      rfl
    refine ⟨fun hev => ⟨fun hy => ?_, fun hx hy => ?_, fun hx hy t ht hcause => ?_⟩, fun hev h => ?_, fun hx hy => ?_,
      fun hx hy => ?_⟩
    · have h := hsnan (.inr hy)
      rw [nan2_of_snan_right hy] at h
      exact fpuCompletes_of (n := s.draws) h ((forced_ivld _).trans hev)
    · have h := hsnan (.inl hx)
      rw [nan2_of_snan_left hx hy] at h
      exact fpuCompletes_of (n := s.draws) h ((forced_ivld _).trans hev)
    · rw [hexec] at ht
      have hr := invalidIsNan_screened (fpsr := s.fpsr) hx hy hinvalid ((completeFp_causes ht).symm.trans hcause)
      rw [hr] at ht
      rcases completeFp_cases ht with ⟨v, hv, _, rfl⟩ | ⟨hforced, _⟩
      · rw [reg_advance, reg_setReg_self]
        exact (Option.some.inj hv).symm
      · rcases hforced with hnone | hforced
        · exact nomatch hnone
        · rw [show (invalid invalidNan).raised.forced s.fpsr = false from (forced_ivld _).trans hev] at hforced
          exact absurd hforced (by decide)
    · obtain ⟨t, ht, _, hregs, _⟩ := completeFp_keeps_regs (d := d) (r := invalid (nan2 x y)) (s := s)
        ((forced_ivld _).trans hev)
      exact ⟨t, (hsnan h).trans ht, hregs⟩
    · have hsn : ¬ (fpClass x = .snan ∨ fpClass y = .snan) := by rw [hy]; simpa using hx
      have h := hqnan hsn (.inr hy)
      rwa [nan2_of_qnan_right hx hy] at h
    · have hsn : ¬ (fpClass x = .snan ∨ fpClass y = .snan) := by
        rw [hx]
        simpa using ((fpIsNan_eq_false_iff y).mp hy).2
      have h := hqnan hsn (.inl hx)
      rwa [nan2_of_qnan_left hx hy] at h
  case trap =>
    intro d a b s hev hsnan i hi
    obtain ⟨subtract, hexec⟩ : ∃ subtract, exec i s =
        completeFp d (maddCore s.fpsr (s.reg d) (s.reg a) (s.reg b) subtract) s := by
      simp only [List.mem_cons, List.not_mem_nil, or_false] at hi
      rcases hi with rfl | rfl
      exacts [⟨false, rfl⟩, ⟨true, rfl⟩]
    obtain ⟨t, ht, _, hregs, _⟩ := completeFp_keeps_regs (d := d) (forced_maddCore_of_snan subtract hev hsnan)
    exact ⟨t, hexec.trans ht, hregs⟩
  case addend =>
    intro fpsr d x y v subtract hv
    rcases mulCore_forced_or_word fpsr x y .towardZero with hf | ⟨p, e, hp, he⟩
    · rw [maddCore_of_forced subtract hf] at hv
      exact nomatch hv
    · rw [maddCore_of_word subtract hp he] at hv ⊢
      refine ⟨fun hd => ?_, fun hd => ?_, fun hd hnan => ?_, fun hd hx hy hivld => ?_⟩
      · rw [maddStep2_of_qnan hd] at hv
        exact (Option.some.inj hv).symm
      · rw [maddStep2_of_snan hd] at hv ⊢
        exact ⟨(Option.some.inj hv).symm, Bool.or_true _⟩
      · have hpnan := fpClass_product_nan hnan hp
        rw [maddStep2_of_product_nan hd hpnan] at hv ⊢
        rw [hp, ← Option.some.inj hv]
      · rcases hxi : e.ivld with _ | _
        · exact Option.some.inj (hv.symm.trans (maddStep2_ivld hd hxi hivld))
        · have hprod : mulCore fpsr x y .towardZero = invalid invalidNan := by
            have hinv : (mulCore fpsr x y .towardZero).InvalidIsNan := by
              rw [mulCore_eq]
              exact invalidIsNan_screened hx hy (invalidIsNan_mulArith _ _ _ _)
            exact hinv (by rw [hp]; exact hxi)
          have hpi : p = invalidNan := Option.some.inj (congrArg FpResult.val (hp.symm.trans hprod))
          subst hpi
          rw [maddStep2_of_product_nan hd fpClass_invalidNan] at hv
          exact (Option.some.inj hv).symm

/-- Settles O49. -/
theorem zeroDivide : Obligations.ZeroDivide := by
  refine ⟨?_, fun _ _ _ _ _ _ _ _ _ _ => ⟨noDiv0_addCore _ _ _ _ _, noDiv0_mulCore _ _ _ _,
    noDiv0_maddCore _ _ _ _ _, noDiv0_floatOfInteger _ _, noDiv0_integerOfFloat _ _ _, noDiv0_compareCore _ _ _ _ _⟩⟩
  intro d a b s hb infinity
  have hexec : exec (.fdiv d a b) s =
    completeFp d (divCore s.fpsr (s.reg a) (s.reg b) (fpsrMode s.fpsr)) s := rfl
  refine ⟨fun ha hez => ?_, fun ha hez => ?_, fun ha hev => ?_, fun ha => ?_⟩
  · rw [divCore_normal_zero _ _ hb ha] at hexec
    exact fpuCompletes_of (n := s.draws) hexec ((forced_div0 _).trans hez)
  · rw [divCore_normal_zero _ _ hb ha] at hexec
    rw [hexec]
    exact completeFp_keeps_regs ((forced_div0 _).trans hez)
  · rw [divCore_zero_zero _ _ hb ha] at hexec
    exact fpuCompletes_of (n := s.draws) hexec ((forced_ivld _).trans hev)
  · rw [divCore_inf_zero _ _ hb ha] at hexec
    exact fpuCompletes_of (n := s.draws) hexec (forced_noExceptions _)

/-- Settles O55: both replacements are the model's own reading of a denormalized operand. -/
theorem denormalAsZero : Obligations.DenormalAsZero := by
  intro fpsr x y m neg flush
  refine ⟨fun hdn => ?_, fun hdn hx hy hd r hr => ?_⟩
  · have hflush (w : Word) : flush w = fpEff fpsr w := by
      rw [fpEff_eq_flushedOperand, flushedOperand, hdn]
      simp only [and_true]
      rfl
    rw [hflush, hflush]
    simp only [addCore_eq, mulCore_eq, divCore_eq, screenOperands_fpEff hdn, fpEff_fpEff, and_self]
  · have hs := screenOperands_of_denormal hdn hx hy hd
    simp only [addCore_eq, mulCore_eq, divCore_eq, hs, Option.getD_some, List.mem_cons, List.not_mem_nil, or_false,
      or_self] at hr
    exact hr

end Sys2Proof.Proofs
end

section
/-! SUPPORT. Rounding to 24 bits (46_float_common.md R324, R325): the exponent, the significand before and after rounding,
and what each mode makes of it. Settles the laws of the rounding. -/

namespace Sys2Proof.Machine

-- ## The exponent of a rational (R325)

theorem zpow_two_lt_zpow_two {m n : Int} : (2 : ℚ) ^ m < 2 ^ n ↔ m < n := zpow_lt_zpow_iff_right₀ one_lt_two
theorem zpow_two_le_zpow_two {m n : Int} : (2 : ℚ) ^ m ≤ 2 ^ n ↔ m ≤ n := zpow_le_zpow_iff_right₀ one_lt_two
theorem zpow_two_pos (n : Int) : (0 : ℚ) < 2 ^ n := zpow_pos two_pos n

/-- A positive integer lies between two powers of 2. -/
theorem log2_spec {n : Nat} (h : n ≠ 0) : (2 : ℚ) ^ (n.log2 : Int) ≤ n ∧ (n : ℚ) < 2 ^ ((n.log2 : Int) + 1) := by
  have hhi : n < 2 ^ (n.log2 + 1) := Nat.lt_log2_self
  refine ⟨?_, ?_⟩
  · rw [zpow_natCast]
    exact_mod_cast Nat.log2_self_le h
  · rw [← Nat.cast_succ, zpow_natCast]
    exact_mod_cast hhi

theorem binaryExponent_spec {a : ℚ} (ha : 0 < a) :
    (2 : ℚ) ^ binaryExponent a ≤ a ∧ a < 2 ^ (binaryExponent a + 1) := by
  have hnum : a.num.natAbs ≠ 0 := Int.natAbs_ne_zero.mpr (Rat.num_pos.mpr ha).ne'
  have hnumcast : (a.num.natAbs : ℚ) = a.num := by
    rw [← Int.cast_natCast, Int.natAbs_of_nonneg (Rat.num_pos.mpr ha).le]
  have hden : (0 : ℚ) < a.den := by exact_mod_cast a.den_pos
  have ha' : a = a.num.natAbs / a.den := by rw [hnumcast, Rat.num_div_den]
  obtain ⟨hnlo, hnhi⟩ := log2_spec hnum
  obtain ⟨hdlo, hdhi⟩ := log2_spec a.den_nz
  generalize hk : (a.num.natAbs.log2 : Int) - (a.den.log2 : Int) = k
  have hlo : (2 : ℚ) ^ (k - 1) ≤ a := by
    rw [ha', le_div_iff₀ hden]
    calc (2 : ℚ) ^ (k - 1) * a.den ≤ 2 ^ (k - 1) * 2 ^ ((a.den.log2 : Int) + 1) := by
          exact mul_le_mul_of_nonneg_left hdhi.le (zpow_two_pos _).le
      _ = 2 ^ (a.num.natAbs.log2 : Int) := by rw [← zpow_add₀ two_ne_zero]; congr 1; omega
      _ ≤ a.num.natAbs := hnlo
  have hhi : a < (2 : ℚ) ^ (k + 1) := by
    rw [ha', div_lt_iff₀ hden]
    calc (a.num.natAbs : ℚ) < 2 ^ ((a.num.natAbs.log2 : Int) + 1) := hnhi
      _ = 2 ^ (k + 1) * 2 ^ (a.den.log2 : Int) := by rw [← zpow_add₀ two_ne_zero]; congr 1; omega
      _ ≤ 2 ^ (k + 1) * a.den := mul_le_mul_of_nonneg_left hdlo (zpow_two_pos _).le
  unfold binaryExponent
  rw [hk]
  simp only [twoPow_eq]
  split_ifs with h
  · exact ⟨hlo, by rwa [Int.sub_add_cancel]⟩
  · exact ⟨not_lt.mp h, hhi⟩

-- ## Rounding to an integer (R325)

theorem floor_toNat_eq (m : ℚ) : m.floor.toNat = ⌊m⌋₊ := rfl

theorem ceil_toNat_eq (m : ℚ) : m.ceil.toNat = ⌈m⌉₊ := by
  rw [← Int.ceil_toNat, Rat.ceil_eq_neg_floor_neg, show (-m).floor = ⌊-m⌋ from rfl, Int.floor_neg, neg_neg]

/-- The mode rounds a value of the sign toward 0. -/
def RoundMode.shrinks : RoundMode → Bool → Bool
  | .nearest, _ => false
  | .towardZero, _ => true
  | .towardPlus, neg => neg
  | .towardMinus, neg => !neg

/-- The mode rounds a value of the sign away from 0. -/
def RoundMode.grows : RoundMode → Bool → Bool
  | .nearest, _ => false
  | .towardZero, _ => false
  | .towardPlus, neg => !neg
  | .towardMinus, neg => neg

theorem nearest_or_shrinks_or_grows (mode : RoundMode) (neg : Bool) :
    mode = .nearest ∨ mode.shrinks neg = true ∨ mode.grows neg = true := by
  cases mode <;> cases neg <;> simp [RoundMode.shrinks, RoundMode.grows]

theorem roundInteger_of_shrinks {mode : RoundMode} {neg : Bool} (h : mode.shrinks neg = true) (m : ℚ) :
    roundInteger mode neg m = ⌊m⌋₊ := by
  cases mode with
  | nearest => exact nomatch h
  | towardZero => rfl
  | towardPlus => exact if_pos h
  | towardMinus => exact if_neg (by simpa [RoundMode.shrinks, RoundMode.grows] using h)

theorem roundInteger_of_grows {mode : RoundMode} {neg : Bool} (h : mode.grows neg = true) (m : ℚ) :
    roundInteger mode neg m = ⌈m⌉₊ := by
  rw [← ceil_toNat_eq]
  cases mode with
  | nearest => exact nomatch h
  | towardZero => exact nomatch h
  | towardPlus => exact if_neg (by simpa [RoundMode.shrinks, RoundMode.grows] using h)
  | towardMinus => exact if_pos h

/-- Above an integer part that is not the whole, the next integer is the one above. -/
theorem ceil_eq_floor_add_one {m : ℚ} (h : (⌊m⌋₊ : ℚ) < m) : ⌈m⌉₊ = ⌊m⌋₊ + 1 :=
  le_antisymm (Nat.ceil_le_floor_add_one m) (by
    have hceil : ⌊m⌋₊ < ⌈m⌉₊ := by exact_mod_cast lt_of_lt_of_le h (Nat.le_ceil m)
    omega)

/-- To nearest: within a half, and in a tie to the even integer. -/
theorem roundInteger_nearest {m : ℚ} (hm : 0 ≤ m) (neg : Bool) :
    |(roundInteger .nearest neg m : ℚ) - m| ≤ 1 / 2 ∧
      (|(roundInteger .nearest neg m : ℚ) - m| = 1 / 2 → roundInteger .nearest neg m % 2 = 0) := by
  have hfloor : (⌊m⌋₊ : ℚ) ≤ m := Nat.floor_le hm
  have hfloor' : m < ⌊m⌋₊ + 1 := Nat.lt_floor_add_one m
  have hbelow : |(⌊m⌋₊ : ℚ) - m| = m - ⌊m⌋₊ := by rw [abs_sub_comm, abs_of_nonneg (by linarith)]
  have hhalf : mkRat 1 2 = (1 / 2 : ℚ) := by norm_num [Rat.mkRat_eq_div]
  unfold roundInteger
  simp only [floor_toNat_eq, ceil_toNat_eq, mkRat_one, Int.cast_natCast, hhalf]
  split_ifs with hlow hhigh heven
  · rw [hbelow]
    exact ⟨hlow.le, fun h => absurd h hlow.ne⟩
  · have habove : ((⌈m⌉₊ : ℕ) : ℚ) = ⌊m⌋₊ + 1 := by
      rw [ceil_eq_floor_add_one (by linarith), Nat.cast_succ]
    rw [habove, abs_of_nonneg (by linarith)]
    exact ⟨by linarith, fun h => absurd h (by linarith)⟩
  · rw [hbelow]
    exact ⟨not_lt.mp hhigh, fun _ => heven⟩
  · have hhalf : m - ⌊m⌋₊ = 1 / 2 := le_antisymm (not_lt.mp hhigh) (not_lt.mp hlow)
    have hceil : ⌈m⌉₊ = ⌊m⌋₊ + 1 := ceil_eq_floor_add_one (by linarith)
    rw [hceil, Nat.cast_succ, abs_of_nonneg (by linarith)]
    exact ⟨by linarith, fun _ => by omega⟩

/-- Every mode rounds to one of the two integers next to the value. -/
theorem roundInteger_eq_floor_or_ceil {m : ℚ} (hm : 0 ≤ m) (mode : RoundMode) (neg : Bool) :
    roundInteger mode neg m = ⌊m⌋₊ ∨ roundInteger mode neg m = ⌈m⌉₊ := by
  rcases nearest_or_shrinks_or_grows mode neg with rfl | h | h
  · have hnear := abs_le.mp (roundInteger_nearest hm neg).1
    have hlo : ⌊m⌋₊ ≤ roundInteger .nearest neg m := by
      have h : (⌊m⌋₊ : ℚ) < (roundInteger .nearest neg m : ℚ) + 1 := by linarith [Nat.floor_le hm]
      exact Nat.lt_succ_iff.mp (by exact_mod_cast h)
    have hhi : roundInteger .nearest neg m ≤ ⌈m⌉₊ := by
      have h : (roundInteger .nearest neg m : ℚ) < (⌈m⌉₊ : ℚ) + 1 := by linarith [Nat.le_ceil m]
      exact Nat.lt_succ_iff.mp (by exact_mod_cast h)
    have hceil := Nat.ceil_le_floor_add_one m
    omega
  · exact .inl (roundInteger_of_shrinks h m)
  · exact .inr (roundInteger_of_grows h m)

theorem roundInteger_natCast (mode : RoundMode) (neg : Bool) (n : Nat) : roundInteger mode neg (n : ℚ) = n := by
  rcases roundInteger_eq_floor_or_ceil n.cast_nonneg mode neg with h | h
  · rw [h, Nat.floor_natCast]
  · rw [h, Nat.ceil_natCast]

/-- Rounding to an integer stays on its side of every integer. -/
theorem le_roundInteger {m : ℚ} (mode : RoundMode) (neg : Bool) {n : Nat} (h : (n : ℚ) ≤ m) :
    n ≤ roundInteger mode neg m := by
  have hm : 0 ≤ m := n.cast_nonneg.trans h
  rcases roundInteger_eq_floor_or_ceil hm mode neg with he | he <;> rw [he]
  · exact Nat.le_floor h
  · exact_mod_cast h.trans (Nat.le_ceil m)

theorem roundInteger_le {m : ℚ} (hm : 0 ≤ m) (mode : RoundMode) (neg : Bool) {n : Nat} (h : m ≤ n) :
    roundInteger mode neg m ≤ n := by
  rcases roundInteger_eq_floor_or_ceil hm mode neg with he | he <;> rw [he]
  · exact Nat.floor_le_of_le h
  · exact Nat.ceil_le.mpr h

theorem abs_roundInteger_sub_lt_one {m : ℚ} (hm : 0 ≤ m) (mode : RoundMode) (neg : Bool) :
    |(roundInteger mode neg m : ℚ) - m| < 1 := by
  rw [abs_lt]
  rcases roundInteger_eq_floor_or_ceil hm mode neg with he | he <;> rw [he]
  · constructor <;> linarith [Nat.floor_le hm, Nat.lt_floor_add_one m]
  · constructor <;> linarith [Nat.le_ceil m, Nat.ceil_lt_add_one hm]

-- ## The parts of a rounding to 24 bits (R325)

/-- The exponent of a nonzero rational. -/
def scale (q : ℚ) : Int := binaryExponent |q|

/-- One unit in the last of 24 places. -/
def ulp (q : ℚ) : ℚ := 2 ^ (scale q - 23)

/-- The magnitude in units. -/
def significand (q : ℚ) : ℚ := |q| * 2 ^ (23 - scale q)

/-- The magnitude in units, rounded. -/
def roundedSignificand (q : ℚ) (mode : RoundMode) : Nat := roundInteger mode (decide (q < 0)) (significand q)

/-- The sign of a nonzero rational, as a factor. -/
def signFactor (q : ℚ) : ℚ := if q < 0 then -1 else 1

/-- The number that a rounding stands for (R325). -/
def Rounded.value (r : Rounded) : ℚ := (if r.sign then -1 else 1) * r.sig * 2 ^ (r.exp - 23)

theorem abs_eq_ite (q : ℚ) : (if q < 0 then -q else q) = |q| := by
  split_ifs with h
  · exact (abs_of_neg h).symm
  · exact (abs_of_nonneg (not_lt.mp h)).symm

theorem round24_eq (q : ℚ) (mode : RoundMode) :
    round24 q mode =
      if roundedSignificand q mode = 2 ^ 24 then
        ⟨decide (q < 0), scale q + 1, 2 ^ 23, decide ((roundedSignificand q mode : ℚ) ≠ significand q)⟩
      else ⟨decide (q < 0), scale q, roundedSignificand q mode,
        decide ((roundedSignificand q mode : ℚ) ≠ significand q)⟩ := by
  unfold round24
  simp only [abs_eq_ite, twoPow_eq, mkRat_one]
  rfl

theorem ulp_pos (q : ℚ) : 0 < ulp q := zpow_two_pos _

theorem significand_mul_ulp (q : ℚ) : significand q * ulp q = |q| := by
  rw [significand, ulp, mul_assoc, ← zpow_add₀ two_ne_zero]
  simp

theorem signFactor_mul_abs (q : ℚ) : signFactor q * |q| = q := by
  unfold signFactor
  split_ifs with h
  · rw [abs_of_neg h]; ring
  · rw [abs_of_nonneg (not_lt.mp h), one_mul]

theorem signFactor_mul_self (q : ℚ) : signFactor q * signFactor q = 1 := by
  unfold signFactor
  split_ifs <;> norm_num

theorem abs_signFactor (q : ℚ) : |signFactor q| = 1 := by
  unfold signFactor
  split_ifs <;> norm_num

theorem round24_sign (q : ℚ) (mode : RoundMode) : (round24 q mode).sign = decide (q < 0) := by
  rw [round24_eq]
  split_ifs <;> rfl

theorem round24_value (q : ℚ) (mode : RoundMode) :
    (round24 q mode).value = signFactor q * (roundedSignificand q mode * ulp q) := by
  have hfactor : (if (decide (q < 0)) = true then (-1 : ℚ) else 1) = signFactor q := by
    simp only [decide_eq_true_iff, signFactor]
  rw [round24_eq]
  split_ifs with hcarry
  · rw [Rounded.value, hfactor, hcarry, ulp, mul_assoc]
    congr 1
    rw [show scale q + 1 - 23 = 1 + (scale q - 23) by ring, zpow_add₀ two_ne_zero]
    push_cast
    ring
  · rw [Rounded.value, hfactor, ulp, mul_assoc]

/-- The rounded value and the value, in units. -/
theorem abs_round24_value_sub (q : ℚ) (mode : RoundMode) :
    |(round24 q mode).value - q| = |(roundedSignificand q mode : ℚ) - significand q| * ulp q := by
  have hsub : (round24 q mode).value - q =
      signFactor q * (((roundedSignificand q mode : ℚ) - significand q) * ulp q) := by
    rw [round24_value, sub_mul, significand_mul_ulp, mul_sub, signFactor_mul_abs]
  rw [hsub, abs_mul, abs_signFactor, one_mul, abs_mul, abs_of_pos (ulp_pos q)]

theorem round24_inexact_iff (q : ℚ) (mode : RoundMode) : (round24 q mode).inexact = true ↔ (round24 q mode).value ≠ q := by
  have hinexact : (round24 q mode).inexact = decide ((roundedSignificand q mode : ℚ) ≠ significand q) := by
    rw [round24_eq]
    split_ifs <;> rfl
  rw [hinexact, decide_eq_true_iff, ne_eq, ne_eq, ← sub_eq_zero, ← sub_eq_zero (a := (round24 q mode).value),
    ← abs_eq_zero (a := (round24 q mode).value - q), abs_round24_value_sub, mul_eq_zero, or_iff_left (ulp_pos q).ne',
    abs_eq_zero]

theorem abs_round24_value (q : ℚ) (mode : RoundMode) : |(round24 q mode).value| = roundedSignificand q mode * ulp q := by
  have hnonneg : 0 ≤ (roundedSignificand q mode : ℚ) * ulp q := mul_nonneg (Nat.cast_nonneg _) (ulp_pos q).le
  rw [round24_value, abs_mul, abs_signFactor, one_mul, abs_of_nonneg hnonneg]

/-- The unit of the rounded value is that of the value, or twice it after a carry. -/
theorem ulp_le_round24 (q : ℚ) (mode : RoundMode) : ulp q ≤ 2 ^ ((round24 q mode).exp - 23) := by
  rw [ulp, zpow_two_le_zpow_two, round24_eq]
  split_ifs
  · exact Int.sub_le_sub_right (Int.le.intro 1 rfl) 23
  · exact le_refl _

theorem le_roundedSignificand_of_grows {q : ℚ} {mode : RoundMode} (h : mode.grows (decide (q < 0)) = true) :
    significand q ≤ (roundedSignificand q mode : ℚ) := by
  rw [roundedSignificand, roundInteger_of_grows h]
  exact Nat.le_ceil _

/-- The rounded value has the sign of the value. -/
theorem round24_value_eq_abs (q : ℚ) (mode : RoundMode) :
    (round24 q mode).value = signFactor q * |(round24 q mode).value| := by
  have hnonneg : 0 ≤ (roundedSignificand q mode : ℚ) * ulp q := mul_nonneg (Nat.cast_nonneg _) (ulp_pos q).le
  rw [round24_value, abs_mul, abs_signFactor, one_mul, abs_of_nonneg hnonneg]

theorem abs_le_round24_of_grows {q : ℚ} {mode : RoundMode} (h : mode.grows (decide (q < 0)) = true) :
    |q| ≤ |(round24 q mode).value| := by
  rw [abs_round24_value, ← significand_mul_ulp q]
  exact mul_le_mul_of_nonneg_right (le_roundedSignificand_of_grows h) (ulp_pos q).le

section Nonzero
variable {q : ℚ} (hq : q ≠ 0)
include hq

theorem scale_spec : (2 : ℚ) ^ scale q ≤ |q| ∧ |q| < 2 ^ (scale q + 1) := binaryExponent_spec (abs_pos.mpr hq)

theorem significand_bounds : 2 ^ 23 ≤ significand q ∧ significand q < 2 ^ 24 := by
  obtain ⟨hlo, hhi⟩ := scale_spec hq
  have hpos := zpow_two_pos (23 - scale q)
  have hmul (n : Int) : (2 : ℚ) ^ n * 2 ^ (23 - scale q) = 2 ^ (n + (23 - scale q)) := (zpow_add₀ two_ne_zero _ _).symm
  constructor
  · have h := mul_le_mul_of_nonneg_right hlo hpos.le
    rw [hmul, show scale q + (23 - scale q) = ((23 : Nat) : Int) by push_cast; ring, zpow_natCast] at h
    exact h
  · have h := mul_lt_mul_of_pos_right hhi hpos
    rw [hmul, show scale q + 1 + (23 - scale q) = ((24 : Nat) : Int) by push_cast; ring, zpow_natCast] at h
    exact h

theorem significand_nonneg : 0 ≤ significand q := le_trans (by norm_num) (significand_bounds hq).1

theorem roundedSignificand_bounds (mode : RoundMode) :
    2 ^ 23 ≤ roundedSignificand q mode ∧ roundedSignificand q mode ≤ 2 ^ 24 := by
  obtain ⟨hlo, hhi⟩ := significand_bounds hq
  exact ⟨le_roundInteger mode _ (by exact_mod_cast hlo),
    roundInteger_le (significand_nonneg hq) mode _ (by exact_mod_cast hhi.le)⟩

theorem round24_sig_bounds (mode : RoundMode) : 2 ^ 23 ≤ (round24 q mode).sig ∧ (round24 q mode).sig < 2 ^ 24 := by
  obtain ⟨hlo, hhi⟩ := roundedSignificand_bounds hq mode
  rw [round24_eq]
  split_ifs with hcarry
  · exact ⟨le_refl _, by norm_num⟩
  · exact ⟨hlo, lt_of_le_of_ne hhi hcarry⟩

/-- Toward 0, the rounded magnitude is no larger. -/
theorem roundedSignificand_le_of_shrinks {mode : RoundMode} (h : mode.shrinks (decide (q < 0)) = true) :
    (roundedSignificand q mode : ℚ) ≤ significand q := by
  rw [roundedSignificand, roundInteger_of_shrinks h]
  exact Nat.floor_le (significand_nonneg hq)

theorem abs_round24_le_of_shrinks {mode : RoundMode} (h : mode.shrinks (decide (q < 0)) = true) :
    |(round24 q mode).value| ≤ |q| := by
  rw [abs_round24_value, ← significand_mul_ulp q]
  exact mul_le_mul_of_nonneg_right (roundedSignificand_le_of_shrinks hq h) (ulp_pos q).le

theorem le_round24_towardPlus : q ≤ (round24 q .towardPlus).value := by
  rw [round24_value_eq_abs]
  nth_rw 1 [← signFactor_mul_abs q]
  by_cases hneg : q < 0
  · have h := abs_round24_le_of_shrinks (mode := .towardPlus) hq (decide_eq_true hneg)
    rw [signFactor, if_pos hneg]
    linarith
  · have h := abs_le_round24_of_grows (q := q) (mode := .towardPlus) (by simp [RoundMode.grows, hneg])
    rw [signFactor, if_neg hneg]
    linarith

theorem round24_towardMinus_le : (round24 q .towardMinus).value ≤ q := by
  rw [round24_value_eq_abs]
  nth_rw 3 [← signFactor_mul_abs q]
  by_cases hneg : q < 0
  · have h := abs_le_round24_of_grows (mode := .towardMinus) (decide_eq_true hneg)
    rw [signFactor, if_pos hneg]
    linarith
  · have h := abs_round24_le_of_shrinks (mode := .towardMinus) hq (by simp [RoundMode.shrinks, hneg])
    rw [signFactor, if_neg hneg]
    linarith

end Nonzero

end Sys2Proof.Machine

namespace Sys2Proof.Proofs
open Sys2Proof.Machine

/-- Settles O50. -/
theorem roundingLaws : Obligations.RoundingLaws := by
  intro q mode hq
  obtain ⟨hlo, hhi⟩ := round24_sig_bounds hq mode
  have hulp := ulp_le_round24 q mode
  have hdist := abs_round24_value_sub q mode
  refine ⟨hlo, hhi, ?sign, ?exact, ?unit, ?nearest, ?zero, ?plus, ?minus⟩
  case sign => rw [round24_sign, decide_eq_true_iff]
  case exact =>
    have h := (round24_inexact_iff q mode).not
    rw [Bool.not_eq_true, not_not] at h
    exact h
  case unit =>
    refine lt_of_lt_of_le ?_ hulp
    refine hdist.trans_lt ?_
    exact mul_lt_of_lt_one_left (ulp_pos q) (abs_roundInteger_sub_lt_one (significand_nonneg hq) mode _)
  case nearest =>
    rintro rfl
    have hhalf := (roundInteger_nearest (significand_nonneg hq) (decide (q < 0))).1
    calc |(round24 q .nearest).value - q| ≤ 1 / 2 * ulp q :=
          hdist.trans_le (mul_le_mul_of_nonneg_right hhalf (ulp_pos q).le)
      _ ≤ 1 / 2 * 2 ^ ((round24 q .nearest).exp - 23) := by linarith
      _ = 2 ^ ((round24 q .nearest).exp - 24) := by
          rw [show (round24 q .nearest).exp - 23 = 1 + ((round24 q .nearest).exp - 24) by ring,
            zpow_add₀ two_ne_zero]
          ring
  case zero =>
    rintro rfl
    exact abs_round24_le_of_shrinks hq rfl
  case plus =>
    rintro rfl
    exact le_round24_towardPlus hq
  case minus =>
    rintro rfl
    exact round24_towardMinus_le hq

end Sys2Proof.Proofs
end

section
/-! SUPPORT. The word of a rounded value among the words of all finite numbers (46_float_common.md R322 to R329): it is the
one that the mode rounds to, and an exponent out of range is an overflow. -/

namespace Sys2Proof.Machine

-- ## The word of a rounded value (R326)

section Word
variable {r : Rounded} (hlo : 2 ^ 23 ≤ r.sig) (hhi : r.sig < 2 ^ 24) (helo : -126 ≤ r.exp) (hehi : r.exp ≤ 127)

theorem fpSign_word (r : Rounded) : fpSign r.word = r.sign := (fields_append _ _ _).1

include helo hehi in
theorem fpExponent_word : (fpExponent r.word : Int) = r.exp + 127 := by
  have h : fpExponent r.word = (BitVec.ofInt 8 (r.exp + 127)).toNat := (fields_append _ _ _).2.1
  rw [h, BitVec.toNat_ofInt]
  omega

include hhi in
theorem fpFraction_word : fpFraction r.word = r.sig - 2 ^ 23 := by
  have h : fpFraction r.word = (BitVec.ofNat 23 (r.sig - 2 ^ 23)).toNat := (fields_append _ _ _).2.2
  rw [h, BitVec.toNat_ofNat]
  omega

include helo hehi in
theorem fpClass_word : fpClass r.word = .normal := by
  have h := fpExponent_word helo hehi
  rw [fpClass_eq_normal_iff]
  omega

include hlo hhi helo hehi in
theorem fpValue_word : fpValue r.word = r.value := by
  have hexp := fpExponent_word helo hehi
  have hmag : fpMagnitude r.word = r.sig * 2 ^ (r.exp - 23) := by
    have hsig : ((2 ^ 23 + (r.sig - 2 ^ 23 : Nat) : Int) : ℚ) = r.sig := by
      rw [show (2 ^ 23 + (r.sig - 2 ^ 23 : Nat) : Int) = r.sig by omega, Int.cast_natCast]
    rw [fpMagnitude, if_neg (by omega), mkRat_one, twoPow_eq, fpFraction_word hhi, hexp, hsig]
    congr 2
    ring
  rw [fpValue, fpSign_word, hmag, Rounded.value, mul_assoc]
  split_ifs <;> ring

include hlo hhi in
/-- Its last bit is that of the significand. -/
theorem getLsbD_zero_word (heven : r.sig % 2 = 0) : r.word.getLsbD 0 = false := by
  rw [getLsbD_zero_eq, decide_eq_false_iff_not, toNat_eq_fields, fpFraction_word hhi]
  omega

end Word

-- ## The finite words on a scale

theorem fpMagnitude_nonneg (w : Word) : 0 ≤ fpMagnitude w := by
  unfold fpMagnitude
  split_ifs
  · rw [mkRat_one]
    exact mul_nonneg (Int.cast_nonneg (Int.natCast_nonneg _)) (twoPow_pos _).le
  · rw [mkRat_one]
    exact mul_nonneg (Int.cast_nonneg (by positivity)) (twoPow_pos _).le

theorem abs_fpValue (w : Word) : |fpValue w| = fpMagnitude w := by
  unfold fpValue
  split_ifs
  · rw [abs_neg, abs_of_nonneg (fpMagnitude_nonneg w)]
  · exact abs_of_nonneg (fpMagnitude_nonneg w)

/-- A finite word below a power of 2, or a whole number of the units there. -/
theorem fpMagnitude_grid {u : Word} {e : Int} (he : -126 ≤ e) :
    fpMagnitude u < 2 ^ e ∨ ∃ k : Nat, fpMagnitude u = k * 2 ^ (e - 23) := by
  have hfrac : (fpFraction u : ℚ) < 2 ^ 23 := by exact_mod_cast fpFraction_lt u
  unfold fpMagnitude
  rw [mkRat_one, mkRat_one, twoPow_eq, twoPow_eq]
  split_ifs with hzero
  · left
    calc ((fpFraction u : Int) : ℚ) * 2 ^ (-149 : Int) < 2 ^ 23 * 2 ^ (-149 : Int) :=
          mul_lt_mul_of_pos_right (by exact_mod_cast hfrac) (zpow_two_pos _)
      _ = 2 ^ (-126 : Int) := by norm_num
      _ ≤ 2 ^ e := zpow_two_le_zpow_two.mpr he
  · rcases lt_or_ge ((fpExponent u : Int) - 127) e with hlt | hge
    · left
      calc ((2 ^ 23 + fpFraction u : Int) : ℚ) * 2 ^ ((fpExponent u : Int) - 150)
          < 2 ^ (24 : Int) * 2 ^ ((fpExponent u : Int) - 150) := by
            refine mul_lt_mul_of_pos_right ?_ (zpow_two_pos _)
            push_cast
            linarith
        _ = 2 ^ ((fpExponent u : Int) - 126) := by rw [← zpow_add₀ two_ne_zero]; congr 1; ring
        _ ≤ 2 ^ e := zpow_two_le_zpow_two.mpr (by omega)
    · right
      obtain ⟨n, hn⟩ := Int.le.dest hge
      refine ⟨(2 ^ 23 + fpFraction u) * 2 ^ n, ?_⟩
      rw [show (fpExponent u : Int) - 150 = (n : Int) + (e - 23) by omega, zpow_add₀ two_ne_zero, zpow_natCast]
      push_cast
      ring

/-- On the scale of a value: below its range, or a whole number of units. -/
def OnGrid (y : ℚ) : Prop := y < 2 ^ 23 ∨ ∃ k : Nat, y = k

/-- A word's value with the sign of `q`, in the units of `q`. -/
def inUnits (q : ℚ) (u : Word) : ℚ := signFactor q * fpValue u / ulp q

theorem inUnits_mul_ulp (q : ℚ) (u : Word) : inUnits q u * ulp q = signFactor q * fpValue u :=
  div_mul_cancel₀ _ (ulp_pos q).ne'

theorem fpValue_eq_inUnits (q : ℚ) (u : Word) : fpValue u = signFactor q * (inUnits q u * ulp q) := by
  rw [inUnits_mul_ulp, ← mul_assoc, signFactor_mul_self, one_mul]

theorem onGrid_of_magnitude {q : ℚ} (hscale : -126 ≤ scale q) (u : Word) : OnGrid (fpMagnitude u / ulp q) := by
  rcases fpMagnitude_grid (u := u) hscale with h | ⟨k, hk⟩
  · left
    rw [div_lt_iff₀ (ulp_pos q), ulp]
    refine h.trans_eq ?_
    rw [← zpow_natCast, ← zpow_add₀ two_ne_zero]
    congr 1
    push_cast
    ring
  · right
    exact ⟨k, by rw [hk, ulp, mul_div_cancel_right₀ _ (zpow_two_pos _).ne']⟩

theorem onGrid_inUnits {q : ℚ} (hscale : -126 ≤ scale q) (u : Word) : OnGrid (inUnits q u) := by
  have hgrid := onGrid_of_magnitude hscale u
  have hnonneg : 0 ≤ fpMagnitude u / ulp q := div_nonneg (fpMagnitude_nonneg u) (ulp_pos q).le
  obtain hpos | hneg : inUnits q u = fpMagnitude u / ulp q ∨ inUnits q u = -(fpMagnitude u / ulp q) := by
    unfold inUnits signFactor fpValue
    split_ifs
    · left; ring
    · right; ring
    · right; ring
    · left; ring
  · rw [hpos]; exact hgrid
  · left
    rw [hneg]
    linarith

section Grid
variable {m y : ℚ} (hm : 2 ^ 23 ≤ m) (hy : OnGrid y)
include hm hy

theorem OnGrid.le_floor (h : y ≤ m) : y ≤ ⌊m⌋₊ := by
  rcases hy with hlt | ⟨k, rfl⟩
  · have hfloor : (2 ^ 23 : Nat) ≤ ⌊m⌋₊ := Nat.le_floor (by exact_mod_cast hm)
    exact hlt.le.trans (by exact_mod_cast hfloor)
  · exact_mod_cast Nat.le_floor h

theorem OnGrid.ceil_le (h : m ≤ y) : (⌈m⌉₊ : ℚ) ≤ y := by
  rcases hy with hlt | ⟨k, rfl⟩
  · exact absurd (hm.trans h) (not_le.mpr hlt)
  · exact_mod_cast Nat.ceil_le.mpr h

/-- To nearest gives the nearest on the grid, in a tie the even one. -/
theorem OnGrid.nearest (neg : Bool) :
    |(roundInteger .nearest neg m : ℚ) - m| ≤ |y - m| ∧
      (|(roundInteger .nearest neg m : ℚ) - m| = |y - m| → y ≠ roundInteger .nearest neg m →
        roundInteger .nearest neg m % 2 = 0) := by
  have hm0 : 0 ≤ m := le_trans (by norm_num) hm
  obtain ⟨hhalf, htie⟩ := roundInteger_nearest hm0 neg
  have hfloor : (⌊m⌋₊ : ℚ) ≤ m := Nat.floor_le hm0
  have hceil : m ≤ ⌈m⌉₊ := Nat.le_ceil m
  have hgap : m = ⌊m⌋₊ ∨ (⌈m⌉₊ : ℚ) = ⌊m⌋₊ + 1 := by
    rcases hfloor.lt_or_eq with h | h
    · exact .inr (by rw [ceil_eq_floor_add_one h, Nat.cast_succ])
    · exact .inl h.symm
  have hwhole (h : m = ⌊m⌋₊) : (⌈m⌉₊ : ℚ) = ⌊m⌋₊ := by
    have hceil' : ⌈m⌉₊ = ⌊m⌋₊ := by
      conv_lhs => rw [h]
      exact Nat.ceil_natCast _
    rw [hceil']
  rcases roundInteger_eq_floor_or_ceil hm0 .nearest neg with hr | hr
  · rw [hr] at hhalf htie ⊢
    rw [abs_sub_comm, abs_of_nonneg (sub_nonneg.mpr hfloor)] at hhalf htie ⊢
    rcases le_total y m with hle | hge
    · have hyf := OnGrid.le_floor hm hy hle
      rw [abs_sub_comm y, abs_of_nonneg (sub_nonneg.mpr hle)]
      exact ⟨by linarith, fun h hne => absurd (by linarith) hne⟩
    · have hyc := OnGrid.ceil_le hm hy hge
      rw [abs_of_nonneg (sub_nonneg.mpr hge)]
      rcases hgap with h | h
      · exact ⟨by linarith, fun heq hne => absurd (by linarith) hne⟩
      · exact ⟨by linarith, fun heq _ => htie (by linarith)⟩
  · rw [hr] at hhalf htie ⊢
    rw [abs_of_nonneg (sub_nonneg.mpr hceil)] at hhalf htie ⊢
    rcases le_total y m with hle | hge
    · have hyf := OnGrid.le_floor hm hy hle
      rw [abs_sub_comm y, abs_of_nonneg (sub_nonneg.mpr hle)]
      rcases hgap with h | h
      · have hw := hwhole h
        exact ⟨by linarith, fun heq hne => absurd (by linarith) hne⟩
      · exact ⟨by linarith, fun heq _ => htie (by linarith)⟩
    · have hyc := OnGrid.ceil_le hm hy hge
      rw [abs_of_nonneg (sub_nonneg.mpr hge)]
      exact ⟨by linarith, fun h hne => absurd (by linarith) hne⟩

end Grid

-- ## The mode's two bits (R324)

/-- The mode that two bits name. -/
def modeOfBits (rm : BitVec 2) : RoundMode :=
  match rm.getLsbD 1, rm.getLsbD 0 with
  | false, false => .nearest
  | false, true => .towardZero
  | true, false => .towardPlus
  | true, true => .towardMinus

theorem fpsrMode_eq (fpsr : Word) : fpsrMode fpsr = modeOfBits (rmBits fpsr) := by
  have hbit (k : Nat) (hk : k < 2) : (rmBits fpsr).getLsbD k = fpsr.getLsbD k := by
    rw [rmBits, BitVec.getLsbD_extractLsb', Nat.zero_add, decide_eq_true hk, Bool.true_and]
  rw [modeOfBits, hbit 1 (by omega), hbit 0 (by omega)]
  rfl

theorem rm_cases (rm : BitVec 2) : rm = 0#2 ∨ rm = 1#2 ∨ rm = 2#2 ∨ rm = 3#2 := by
  revert rm
  decide

-- ## Rounding among the words (R324)

theorem abs_fpValue_sub (q : ℚ) (u : Word) : |fpValue u - q| = |inUnits q u - significand q| * ulp q := by
  have hsub : fpValue u - q = signFactor q * ((inUnits q u - significand q) * ulp q) := by
    rw [sub_mul, significand_mul_ulp, mul_sub, signFactor_mul_abs, ← fpValue_eq_inUnits]
  rw [hsub, abs_mul, abs_signFactor, one_mul, abs_mul, abs_of_pos (ulp_pos q)]

theorem round24_exp_ge (q : ℚ) (mode : RoundMode) : scale q ≤ (round24 q mode).exp := by
  rw [round24_eq]
  split_ifs
  · exact Int.le.intro 1 rfl
  · exact le_refl _

theorem round24_sig_even {q : ℚ} {mode : RoundMode} (h : roundedSignificand q mode % 2 = 0) :
    (round24 q mode).sig % 2 = 0 := by
  rw [round24_eq]
  split_ifs
  · show 2 ^ 23 % 2 = 0
    norm_num
  · exact h

section RoundsTo
variable {q : ℚ} (hq : q ≠ 0) (hscale : -126 ≤ scale q)
include hq hscale

section InRange
variable {mode : RoundMode} (hexp : (round24 q mode).exp ≤ 127)
include hexp

omit hq in
theorem fpClass_round24 : fpClass (round24 q mode).word = .normal :=
  fpClass_word (hscale.trans (round24_exp_ge q mode)) hexp

theorem fpValue_round24 : fpValue (round24 q mode).word = (round24 q mode).value :=
  fpValue_word (round24_sig_bounds hq mode).1 (round24_sig_bounds hq mode).2
    (hscale.trans (round24_exp_ge q mode)) hexp

theorem inUnits_round24 : inUnits q (round24 q mode).word = roundedSignificand q mode := by
  rw [inUnits, fpValue_round24 hq hscale hexp, round24_value, ← mul_assoc, signFactor_mul_self, one_mul,
    mul_div_cancel_right₀ _ (ulp_pos q).ne']

theorem round24_inexact_eq : (round24 q mode).inexact = decide (fpValue (round24 q mode).word ≠ q) := by
  rw [fpValue_round24 hq hscale hexp, Bool.eq_iff_iff, decide_eq_true_iff]
  exact round24_inexact_iff q mode

/-- Toward 0, no word lies between. -/
theorem inUnits_le_round24_of_shrinks (hs : mode.shrinks (decide (q < 0)) = true) {u : Word}
    (h : inUnits q u ≤ significand q) : inUnits q u ≤ inUnits q (round24 q mode).word := by
  rw [inUnits_round24 hq hscale hexp, roundedSignificand, roundInteger_of_shrinks hs]
  exact OnGrid.le_floor (significand_bounds hq).1 (onGrid_inUnits hscale u) h

/-- Away from 0, no word lies between. -/
theorem round24_le_inUnits_of_grows (hg : mode.grows (decide (q < 0)) = true) {u : Word}
    (h : significand q ≤ inUnits q u) : inUnits q (round24 q mode).word ≤ inUnits q u := by
  rw [inUnits_round24 hq hscale hexp, roundedSignificand, roundInteger_of_grows hg]
  exact OnGrid.ceil_le (significand_bounds hq).1 (onGrid_inUnits hscale u) h

end InRange

end RoundsTo

/-- The order of values, in units: as it is for a positive `q`, the other way for a negative one. -/
theorem fpValue_le_iff_of_nonneg {q : ℚ} (h : ¬ q < 0) (u w : Word) :
    fpValue u ≤ fpValue w ↔ inUnits q u ≤ inUnits q w := by
  rw [fpValue_eq_inUnits q u, fpValue_eq_inUnits q w, signFactor, if_neg h, one_mul, one_mul,
    mul_le_mul_iff_left₀ (ulp_pos q)]

theorem fpValue_le_iff_of_neg {q : ℚ} (h : q < 0) (u w : Word) :
    fpValue u ≤ fpValue w ↔ inUnits q w ≤ inUnits q u := by
  rw [fpValue_eq_inUnits q u, fpValue_eq_inUnits q w, signFactor, if_pos h, neg_one_mul, neg_one_mul, neg_le_neg_iff,
    mul_le_mul_iff_left₀ (ulp_pos q)]

theorem eq_signFactor_significand (q : ℚ) : q = signFactor q * (significand q * ulp q) := by
  rw [significand_mul_ulp, signFactor_mul_abs]

theorem le_fpValue_iff_of_nonneg {q : ℚ} (h : ¬ q < 0) (u : Word) : q ≤ fpValue u ↔ significand q ≤ inUnits q u := by
  conv_lhs => rw [eq_signFactor_significand q, fpValue_eq_inUnits q u]
  rw [signFactor, if_neg h, one_mul, one_mul, mul_le_mul_iff_left₀ (ulp_pos q)]

theorem le_fpValue_iff_of_neg {q : ℚ} (h : q < 0) (u : Word) : q ≤ fpValue u ↔ inUnits q u ≤ significand q := by
  conv_lhs => rw [eq_signFactor_significand q, fpValue_eq_inUnits q u]
  rw [signFactor, if_pos h, neg_one_mul, neg_one_mul, neg_le_neg_iff, mul_le_mul_iff_left₀ (ulp_pos q)]

theorem fpValue_le_iff_of_nonneg' {q : ℚ} (h : ¬ q < 0) (u : Word) : fpValue u ≤ q ↔ inUnits q u ≤ significand q := by
  conv_lhs => rw [eq_signFactor_significand q, fpValue_eq_inUnits q u]
  rw [signFactor, if_neg h, one_mul, one_mul, mul_le_mul_iff_left₀ (ulp_pos q)]

theorem fpValue_le_iff_of_neg' {q : ℚ} (h : q < 0) (u : Word) : fpValue u ≤ q ↔ significand q ≤ inUnits q u := by
  conv_lhs => rw [eq_signFactor_significand q, fpValue_eq_inUnits q u]
  rw [signFactor, if_pos h, neg_one_mul, neg_one_mul, neg_le_neg_iff, mul_le_mul_iff_left₀ (ulp_pos q)]

end Sys2Proof.Machine
end

section
/-! SUPPORT. What an exact value delivers (46_float_common.md R326 to R329): rounding, overflow, underflow. -/

namespace Sys2Proof.Machine

-- ## Rounding gives the word that the mode asks for (R324)

section RoundsTo
variable {q : ℚ} (hq : q ≠ 0) (hscale : -126 ≤ scale q)
include hq hscale

theorem round24_nearest (hexp : (round24 q .nearest).exp ≤ 127) (u : Word) :
    |fpValue (round24 q .nearest).word - q| ≤ |fpValue u - q| ∧
      (|fpValue (round24 q .nearest).word - q| = |fpValue u - q| → fpValue u ≠ fpValue (round24 q .nearest).word →
        (round24 q .nearest).word.getLsbD 0 = false) := by
  obtain ⟨hclose, htie⟩ := OnGrid.nearest (significand_bounds hq).1 (onGrid_inUnits hscale u) (decide (q < 0))
  obtain ⟨hlo, hhi⟩ := round24_sig_bounds hq .nearest
  have hulp := ulp_pos q
  rw [abs_fpValue_sub q, abs_fpValue_sub q, inUnits_round24 hq hscale hexp]
  refine ⟨mul_le_mul_of_nonneg_right hclose hulp.le, fun heq hne => ?_⟩
  refine getLsbD_zero_word hlo hhi (round24_sig_even (htie (mul_right_cancel₀ hulp.ne' heq) fun hu => hne ?_))
  rw [fpValue_eq_inUnits q u, fpValue_eq_inUnits q (round24 q .nearest).word, inUnits_round24 hq hscale hexp, hu]
  rfl

theorem round24_towardZero (hexp : (round24 q .towardZero).exp ≤ 127) :
    0 < fpValue (round24 q .towardZero).word * q ∧ |fpValue (round24 q .towardZero).word| ≤ |q| ∧
      ∀ u, |fpValue u| ≤ |q| → |fpValue u| ≤ |fpValue (round24 q .towardZero).word| := by
  have hulp := ulp_pos q
  refine ⟨?_, ?_, fun u hu => ?_⟩
  · have hround : (0 : ℚ) < roundedSignificand q .towardZero :=
      Nat.cast_pos.mpr (lt_of_lt_of_le (by norm_num) (roundedSignificand_bounds hq .towardZero).1)
    have hprod : fpValue (round24 q .towardZero).word * q =
        signFactor q * signFactor q * (roundedSignificand q .towardZero * ulp q * |q|) := by
      conv_lhs => rw [fpValue_round24 hq hscale hexp, round24_value]
      nth_rw 4 [← signFactor_mul_abs q]
      ring
    rw [hprod, signFactor_mul_self, one_mul]
    exact mul_pos (mul_pos hround hulp) (abs_pos.mpr hq)
  · rw [fpValue_round24 hq hscale hexp]
    exact abs_round24_le_of_shrinks hq rfl
  · have hmag : |fpValue u| = fpMagnitude u / ulp q * ulp q := by rw [div_mul_cancel₀ _ hulp.ne', abs_fpValue]
    rw [hmag, ← significand_mul_ulp] at hu
    have hfloor := OnGrid.le_floor (significand_bounds hq).1 (onGrid_of_magnitude hscale u)
      (le_of_mul_le_mul_right hu hulp)
    rw [hmag, fpValue_round24 hq hscale hexp, abs_round24_value]
    exact mul_le_mul_of_nonneg_right hfloor hulp.le

theorem round24_towardPlus (hexp : (round24 q .towardPlus).exp ≤ 127) :
    q ≤ fpValue (round24 q .towardPlus).word ∧
      ∀ u, q ≤ fpValue u → fpValue (round24 q .towardPlus).word ≤ fpValue u := by
  refine ⟨?_, fun u hu => ?_⟩
  · rw [fpValue_round24 hq hscale hexp]
    exact le_round24_towardPlus hq
  · by_cases hneg : q < 0
    · rw [fpValue_le_iff_of_neg hneg]
      exact inUnits_le_round24_of_shrinks hq hscale hexp (decide_eq_true hneg) ((le_fpValue_iff_of_neg hneg u).mp hu)
    · rw [fpValue_le_iff_of_nonneg hneg]
      exact round24_le_inUnits_of_grows hq hscale hexp (by simp [RoundMode.grows, hneg])
        ((le_fpValue_iff_of_nonneg hneg u).mp hu)

theorem round24_towardMinus (hexp : (round24 q .towardMinus).exp ≤ 127) :
    fpValue (round24 q .towardMinus).word ≤ q ∧
      ∀ u, fpValue u ≤ q → fpValue u ≤ fpValue (round24 q .towardMinus).word := by
  refine ⟨?_, fun u hu => ?_⟩
  · rw [fpValue_round24 hq hscale hexp]
    exact round24_towardMinus_le hq
  · by_cases hneg : q < 0
    · rw [fpValue_le_iff_of_neg hneg]
      exact round24_le_inUnits_of_grows hq hscale hexp (decide_eq_true hneg) ((fpValue_le_iff_of_neg' hneg u).mp hu)
    · rw [fpValue_le_iff_of_nonneg hneg]
      exact inUnits_le_round24_of_shrinks hq hscale hexp (by simp [RoundMode.shrinks, hneg])
        ((fpValue_le_iff_of_nonneg' hneg u).mp hu)

/-- The rounded word is the one that the mode rounds to. -/
theorem roundsTo_round24 (rm : BitVec 2) (hexp : (round24 q (modeOfBits rm)).exp ≤ 127) :
    RoundsTo rm q (round24 q (modeOfBits rm)).word := by
  refine ⟨fpClass_round24 hscale hexp, fun u _ _ => ⟨?_, ?_, ?_, ?_⟩⟩
  · rintro rfl
    exact round24_nearest hq hscale hexp u
  · rintro rfl
    obtain ⟨hsign, hle, hmax⟩ := round24_towardZero hq hscale hexp
    exact ⟨hsign, hle, hmax u⟩
  · rintro rfl
    obtain ⟨hle, hmin⟩ := round24_towardPlus hq hscale hexp
    exact ⟨hle, hmin u⟩
  · rintro rfl
    obtain ⟨hle, hmax⟩ := round24_towardMinus hq hscale hexp
    exact ⟨hle, hmax u⟩

end RoundsTo

-- ## Overflow (R327)

/-- Where a magnitude lies to 2^127 and 2^128. -/
theorem scale_trichotomy {q : ℚ} (hq : q ≠ 0) :
    (128 ≤ scale q ∧ (2 : ℚ) ^ 128 ≤ |q|) ∨ (scale q = 127 ∧ |q| = significand q * 2 ^ 104) ∨
      (scale q < 127 ∧ |q| < (2 : ℚ) ^ 127) := by
  obtain ⟨hlo, hhi⟩ := scale_spec hq
  rcases lt_trichotomy (scale q) 127 with h | h | h
  · refine .inr (.inr ⟨h, hhi.trans_le ?_⟩)
    exact (zpow_two_le_zpow_two (n := 127)).mpr h
  · refine .inr (.inl ⟨h, ?_⟩)
    rw [← significand_mul_ulp q, ulp, h]
    norm_num
  · refine .inl ⟨h, le_trans ?_ hlo⟩
    exact (zpow_two_le_zpow_two (m := 128)).mpr h

/-- The rounded exponent is out of range from 2^128 on, and for a carry just below. -/
theorem exp_gt_iff (q : ℚ) (mode : RoundMode) :
    127 < (round24 q mode).exp ↔ 127 < scale q ∨ (scale q = 127 ∧ roundedSignificand q mode = 2 ^ 24) := by
  rw [round24_eq]
  split_ifs with h
  · show 127 < scale q + 1 ↔ _
    omega
  · show 127 < scale q ↔ _
    omega

section Carry
variable {q : ℚ} (hq : q ≠ 0)
include hq

theorem carry_nearest_iff : roundedSignificand q .nearest = 2 ^ 24 ↔ 2 ^ 24 - 1 / 2 ≤ significand q := by
  obtain ⟨hhalf, htie⟩ := roundInteger_nearest (significand_nonneg hq) (decide (q < 0))
  have hmax := (roundedSignificand_bounds hq .nearest).2
  change |(roundedSignificand q .nearest : ℚ) - significand q| ≤ 1 / 2 at hhalf
  change |(roundedSignificand q .nearest : ℚ) - significand q| = 1 / 2 → roundedSignificand q .nearest % 2 = 0 at htie
  constructor
  · intro h
    rw [h] at hhalf
    push_cast at hhalf
    linarith [(abs_le.mp hhalf).2]
  · intro h
    by_contra hne
    have hlt : roundedSignificand q .nearest ≤ 2 ^ 24 - 1 := by omega
    have hcast : (roundedSignificand q .nearest : ℚ) ≤ 2 ^ 24 - 1 := by
      have hc : (roundedSignificand q .nearest : ℚ) ≤ ((2 ^ 24 - 1 : Nat) : ℚ) := Nat.cast_le.mpr hlt
      norm_num at hc ⊢
      exact hc
    have hge := (abs_le.mp hhalf).1
    have heq : (roundedSignificand q .nearest : ℚ) = 2 ^ 24 - 1 := by linarith
    have hsig : significand q = 2 ^ 24 - 1 / 2 := by linarith
    have heven := htie (by rw [heq, hsig]; norm_num)
    have hnat : roundedSignificand q .nearest = 2 ^ 24 - 1 := by
      have hc : (roundedSignificand q .nearest : ℚ) = ((2 ^ 24 - 1 : Nat) : ℚ) := by
        rw [heq]
        norm_num
      exact_mod_cast hc
    omega

theorem not_carry_of_shrinks {mode : RoundMode} (h : mode.shrinks (decide (q < 0)) = true) :
    roundedSignificand q mode ≠ 2 ^ 24 := by
  intro heq
  have hle := roundedSignificand_le_of_shrinks hq h
  rw [heq] at hle
  push_cast at hle
  exact absurd (significand_bounds hq).2 (not_lt.mpr hle)

theorem carry_iff_of_grows {mode : RoundMode} (h : mode.grows (decide (q < 0)) = true) :
    roundedSignificand q mode = 2 ^ 24 ↔ 2 ^ 24 - 1 < significand q := by
  have hle := (roundedSignificand_bounds hq mode).2
  have hceil : roundedSignificand q mode = ⌈significand q⌉₊ := roundInteger_of_grows h _
  have hlt : 2 ^ 24 - 1 < ⌈significand q⌉₊ ↔ ((2 ^ 24 - 1 : Nat) : ℚ) < significand q := Nat.lt_ceil
  rw [show ((2 ^ 24 - 1 : Nat) : ℚ) = 2 ^ 24 - 1 by norm_num] at hlt
  rw [← hlt]
  omega

end Carry

theorem overflows_of_shrinks {q : ℚ} (hq : q ≠ 0) {rm : BitVec 2}
    (h : (modeOfBits rm).shrinks (decide (q < 0)) = true) : Overflows rm q ↔ (2 : ℚ) ^ 128 ≤ |q| := by
  rcases rm_cases rm with rfl | rfl | rfl | rfl
  · exact nomatch h
  · exact Iff.rfl
  · have hneg : q < 0 := decide_eq_true_iff.mp h
    simp [Overflows, hneg]
  · have hneg : ¬ q < 0 := by
      intro hneg
      rw [decide_eq_true hneg] at h
      exact nomatch h
    have hpos : 0 < q := lt_of_le_of_ne (not_lt.mp hneg) hq.symm
    simp [Overflows, hpos]

theorem overflows_of_grows {q : ℚ} {rm : BitVec 2} (h : (modeOfBits rm).grows (decide (q < 0)) = true) :
    Overflows rm q ↔ (2 ^ 24 - 1) * (2 : ℚ) ^ 104 < |q| := by
  rcases rm_cases rm with rfl | rfl | rfl | rfl
  · exact nomatch h
  · exact nomatch h
  · have hneg : ¬ q < 0 := by
      intro hneg
      rw [decide_eq_true hneg] at h
      exact nomatch h
    rw [Overflows, if_neg (by decide), if_neg (by simp [hneg])]
  · have hneg : q < 0 := decide_eq_true_iff.mp h
    rw [Overflows, if_neg (by decide), if_neg (by simp [hneg.le])]

theorem eq_zero_of_nearest {rm : BitVec 2} (h : modeOfBits rm = .nearest) : rm = 0#2 := by
  rcases rm_cases rm with rfl | rfl | rfl | rfl
  exacts [rfl, (nomatch h), (nomatch h), (nomatch h)]

/-- The rounded exponent is out of range exactly where the mode's rounding overflows (R327, D26). -/
theorem exp_gt_iff_overflows {q : ℚ} (hq : q ≠ 0) (rm : BitVec 2) :
    127 < (round24 q (modeOfBits rm)).exp ↔ Overflows rm q := by
  have hmax := (significand_bounds hq).2
  rw [exp_gt_iff]
  rcases nearest_or_shrinks_or_grows (modeOfBits rm) (decide (q < 0)) with hnear | hshrink | hgrow
  · rw [hnear, carry_nearest_iff hq, eq_zero_of_nearest hnear, Overflows, if_pos rfl]
    rcases scale_trichotomy hq with ⟨hs, h⟩ | ⟨hs, h⟩ | ⟨hs, h⟩
    · exact ⟨fun _ => le_trans (by norm_num) h, fun _ => .inl (by omega)⟩
    · rw [h, hs]
      exact ⟨fun hc => by linarith [(hc.resolve_left (lt_irrefl _)).2], fun hle => .inr ⟨rfl, by linarith⟩⟩
    · exact ⟨fun hc => by omega, fun hle => absurd (hle.trans_lt h) (by norm_num)⟩
  · rw [overflows_of_shrinks hq hshrink]
    have hcarry := not_carry_of_shrinks hq hshrink
    rcases scale_trichotomy hq with ⟨hs, h⟩ | ⟨hs, h⟩ | ⟨hs, h⟩
    · exact ⟨fun _ => h, fun _ => .inl (by omega)⟩
    · rw [h, hs]
      exact ⟨fun hc => absurd (hc.resolve_left (lt_irrefl _)).2 hcarry, fun hle => by linarith⟩
    · exact ⟨fun hc => by omega, fun hle => absurd (hle.trans_lt h) (by norm_num)⟩
  · rw [overflows_of_grows hgrow, carry_iff_of_grows hq hgrow]
    rcases scale_trichotomy hq with ⟨hs, h⟩ | ⟨hs, h⟩ | ⟨hs, h⟩
    · exact ⟨fun _ => lt_of_lt_of_le (by norm_num) h, fun _ => .inl (by omega)⟩
    · rw [h, hs]
      exact ⟨fun hc => by linarith [(hc.resolve_left (lt_irrefl _)).2], fun hle => .inr ⟨rfl, by linarith⟩⟩
    · exact ⟨fun hc => by omega, fun hlt => absurd (hlt.trans h) (by norm_num)⟩

-- ## What is delivered (R326 to R329)

section Deliver
variable {fpsr : Word} {q : ℚ} {mode : RoundMode} {zsign : Bool}

theorem deliver_of_zero (h : q = 0) : deliver fpsr q mode zsign = exactly (signedZero zsign) := if_pos h

theorem deliver_of_tiny (hq : q ≠ 0) (h : |q| < (2 : ℚ) ^ (-126 : Int)) :
    deliver fpsr q mode zsign =
      if fpsr.getLsbD 13 then ⟨none, { udf := true }⟩
      else if fpsr.getLsbD 8 then ⟨some (signedZero (decide (q < 0))), { udf := true }⟩
      else ⟨none, { udf := true, uipl := true }⟩ := by
  have htiny : (if q < 0 then -q else q) < twoPow (-126) := by rwa [abs_eq_ite, twoPow_eq]
  exact (if_neg hq).trans (if_pos htiny)

theorem deliver_of_normal (hq : q ≠ 0) (h : (2 : ℚ) ^ (-126 : Int) ≤ |q|) :
    deliver fpsr q mode zsign =
      if 127 < (round24 q mode).exp then
        if fpsr.getLsbD 11 then ⟨none, { ovf := true }⟩
        else ⟨some (ovfValue (round24 q mode).sign (fpsrMode fpsr)), { ovf := true, ixct := true }⟩
      else ⟨some (round24 q mode).word, { ixct := (round24 q mode).inexact }⟩ := by
  have hnormal : ¬ (if q < 0 then -q else q) < twoPow (-126) := by rwa [abs_eq_ite, twoPow_eq, not_lt]
  exact (if_neg hq).trans (if_neg hnormal)

end Deliver

theorem ne_zero_of_two_pow_le {q : ℚ} (h : (2 : ℚ) ^ (-126 : Int) ≤ |q|) : q ≠ 0 :=
  abs_pos.mp (lt_of_lt_of_le (zpow_two_pos _) h)

theorem scale_ge {q : ℚ} {e : Int} (h : (2 : ℚ) ^ e ≤ |q|) : e ≤ scale q := by
  have hq : q ≠ 0 := abs_pos.mp (lt_of_lt_of_le (zpow_two_pos _) h)
  have hlt := h.trans_lt (scale_spec hq).2
  rw [zpow_two_lt_zpow_two] at hlt
  omega

theorem scale_lt {q : ℚ} (hq : q ≠ 0) {e : Int} (h : |q| < (2 : ℚ) ^ e) : scale q < e :=
  zpow_two_lt_zpow_two.mp ((scale_spec hq).1.trans_lt h)

theorem zeroWord_eq (neg : Bool) : zeroWord neg = signedZero neg := by cases neg <;> rfl

theorem infinityWord_eq (neg : Bool) : infinityWord neg = signedInf neg := by cases neg <;> rfl

theorem maskedOverflowWord_eq (rm : BitVec 2) (neg : Bool) :
    maskedOverflowWord rm neg = ovfValue neg (modeOfBits rm) := by
  rcases rm_cases rm with rfl | rfl | rfl | rfl <;> cases neg <;> rfl

/-- `deliver` does what the pages say of an exact result. -/
theorem delivers_deliver (fpsr : Word) (rm : BitVec 2) (q : ℚ) (zsign : Bool) :
    Delivers fpsr rm q (zeroWord zsign) (deliver fpsr q (modeOfBits rm) zsign) := by
  refine ⟨fun h => ?zero, fun hq h => ?tiny, fun h hover => ?overflow, fun h hover => ?fits⟩
  case zero => rw [deliver_of_zero h, zeroWord_eq]; rfl
  case tiny => rw [deliver_of_tiny hq h, zeroWord_eq]
  case overflow =>
    have hq := ne_zero_of_two_pow_le h
    rw [deliver_of_normal hq h, if_pos ((exp_gt_iff_overflows hq rm).mpr hover), round24_sign, fpsrMode_eq,
      maskedOverflowWord_eq]
  case fits =>
    have hq := ne_zero_of_two_pow_le h
    have hexp := mt (exp_gt_iff_overflows hq rm).mp hover
    have hscale := scale_ge h
    refine ⟨_, roundsTo_round24 hq hscale rm (not_lt.mp hexp), ?_⟩
    rw [deliver_of_normal hq h, if_neg hexp, round24_inexact_eq hq hscale (not_lt.mp hexp)]

end Sys2Proof.Machine
end

section
/-! PROOFS of the family 47_float_instructions.md that need rounding: the four operations, the conversions, the two-step
multiplications. -/

namespace Sys2Proof.Machine

-- ## The operand tables (R361, R363, R364)

/-- A word that the arithmetic works on: normalized, zero or infinite. -/
def Ordinary (w : Word) : Prop := fpIsNan w = false ∧ fpClass w ≠ .denormal

theorem Ordinary.cases {w : Word} (h : Ordinary w) : fpClass w = .zero ∨ fpClass w = .normal ∨ fpClass w = .inf := by
  obtain ⟨hnan, hd⟩ := h
  obtain ⟨hq, hs⟩ := (fpIsNan_eq_false_iff w).mp hnan
  cases hc : fpClass w <;> simp_all

theorem Ordinary.flipSign {w : Word} (h : Ordinary w) : Ordinary (flipSign w) := by
  unfold Ordinary fpIsNan at h ⊢
  rwa [fpClass_flipSign]

theorem ordinary_flushedOperand {fpsr w : Word} (hnan : fpIsNan w = false) (hu : fpUnsupported fpsr w = false) :
    Ordinary (flushedOperand fpsr w) := by
  rw [← fpEff_eq_flushedOperand]
  exact ⟨(fpIsNan_fpEff fpsr w).trans hnan, fpClass_fpEff_ne_denormal hu⟩

theorem fpValue_ne_zero_of_normal {w : Word} (h : fpClass w = .normal) : fpValue w ≠ 0 := by
  have hpos : 0 < fpMagnitude w := by
    have hexp := ((fpClass_eq_normal_iff w).mp h).1
    rw [fpMagnitude, if_neg hexp, mkRat_one]
    exact mul_pos (Int.cast_pos.mpr (by positivity)) (twoPow_pos _)
  rw [← abs_pos, abs_fpValue]
  exact hpos

/-- A zero delivers itself. -/
theorem delivers_zero {fpsr : Word} {rm : BitVec 2} {q : ℚ} (z : Word) (h : q = 0) :
    Delivers fpsr rm q z (exactly z) := by
  subst h
  have hnot : ¬ (2 : ℚ) ^ (-126 : Int) ≤ |(0 : ℚ)| := by rw [abs_zero]; exact not_le.mpr (zpow_two_pos _)
  exact ⟨fun _ => rfl, fun hne => absurd rfl hne, fun hle => absurd hle hnot, fun hle => absurd hle hnot⟩

/-- Only an exact zero takes the sign told for it. -/
theorem Delivers.of_ne_zero {fpsr : Word} {rm : BitVec 2} {q : ℚ} {z z' : Word} {r : FpResult}
    (h : Delivers fpsr rm q z r) (hq : q ≠ 0) : Delivers fpsr rm q z' r :=
  ⟨fun h0 => absurd h0 hq, h.2⟩

theorem towardMinus_iff (fpsr : Word) : (fpsrMode fpsr == .towardMinus) = decide (rmBits fpsr = 3#2) := by
  rw [fpsrMode_eq]
  rcases rm_cases (rmBits fpsr) with h | h | h | h <;> rw [h] <;> rfl

section Tables
variable {fpsr x y : Word} (hx : Ordinary x) (hy : Ordinary y)
include hx hy

theorem sumEnds_addArith : SumEnds fpsr x y (addArith fpsr x y (fpsrMode fpsr)) := by
  unfold SumEnds
  by_cases hix : fpClass x = .inf
  · by_cases hiy : fpClass y = .inf
    · by_cases hs : fpSign x = fpSign y
      · have hxy : x = y := by rw [eq_signedInf hix, eq_signedInf hiy, hs]
        rw [if_neg fun h => h.2.2 hxy, if_pos hix, addArith]
        exact (if_pos ⟨hix, hiy⟩).trans (if_pos hs)
      · have hxy : x ≠ y := fun h => hs (by rw [h])
        rw [if_pos ⟨hix, hiy, hxy⟩, addArith]
        exact (if_pos ⟨hix, hiy⟩).trans (if_neg hs)
    · rw [if_neg fun h => hiy h.2.1, if_pos hix, addArith]
      exact (if_neg fun h => hiy h.2).trans (if_pos hix)
  · rw [if_neg fun h => hix h.1, if_neg hix]
    by_cases hiy : fpClass y = .inf
    · rw [if_pos hiy, addArith]
      exact (if_neg fun h => hix h.1).trans ((if_neg hix).trans (if_pos hiy))
    · rw [if_neg hiy]
      have harith : addArith fpsr x y (fpsrMode fpsr) =
          if fpClass x = .zero ∧ fpClass y = .zero then
            if fpSign x = fpSign y then exactly x else exactly (signedZero (fpsrMode fpsr == .towardMinus))
          else deliver fpsr (fpValue x + fpValue y) (fpsrMode fpsr) (fpsrMode fpsr == .towardMinus) := by
        rw [addArith]
        exact (if_neg fun h => hix h.1).trans ((if_neg hix).trans (if_neg hiy))
      rw [harith, towardMinus_iff]
      by_cases hzero : fpClass x = .zero ∧ fpClass y = .zero
      · have hsum : fpValue x + fpValue y = 0 := by rw [fpValue_of_zero hzero.1, fpValue_of_zero hzero.2, add_zero]
        rw [if_pos hzero]
        by_cases hs : fpSign x = fpSign y
        · have hxy : x = y := by rw [eq_signedZero hzero.1, eq_signedZero hzero.2, hs]
          rw [if_pos hs, if_pos hxy]
          exact delivers_zero x hsum
        · have hxy : x ≠ y := fun h => hs (by rw [h])
          rw [if_neg hs, if_neg hxy, ← zeroWord_eq]
          exact delivers_zero _ hsum
      · rw [if_neg hzero, fpsrMode_eq]
        have hdeliver := delivers_deliver fpsr (rmBits fpsr) (fpValue x + fpValue y) (decide (rmBits fpsr = 3#2))
        by_cases hxy : x = y
        · subst hxy
          have hnormal : fpClass x = .normal := by
            rcases hx.cases with h | h | h
            exacts [absurd ⟨h, h⟩ hzero, h, absurd h hix]
          exact hdeliver.of_ne_zero (by
            rw [← two_mul]
            exact mul_ne_zero two_ne_zero (fpValue_ne_zero_of_normal hnormal))
        · rwa [if_neg hxy]

omit hx hy in
theorem productEnds_mulArith (rm : BitVec 2) : ProductEnds fpsr rm x y (mulArith fpsr x y (modeOfBits rm)) := by
  unfold ProductEnds mulArith
  dsimp only
  split_ifs with hinvalid hinf hzero
  · rfl
  · rw [infinityWord_eq]; rfl
  · have hprod : fpValue x * fpValue y = 0 := by
      rcases hzero with h | h
      · rw [fpValue_of_zero h, zero_mul]
      · rw [fpValue_of_zero h, mul_zero]
    have hd := delivers_zero (fpsr := fpsr) (rm := rm) (zeroWord (fpSign x ^^ fpSign y)) hprod
    rw [zeroWord_eq] at hd ⊢
    exact hd
  · exact delivers_deliver fpsr rm _ _

omit hx hy in
theorem quotientEnds_divArith : QuotientEnds fpsr x y (divArith fpsr x y (fpsrMode fpsr)) := by
  unfold QuotientEnds divArith
  dsimp only
  by_cases hinvalid : (fpClass x = .zero ∧ fpClass y = .zero) ∨ (fpClass x = .inf ∧ fpClass y = .inf)
  · rw [if_pos hinvalid, if_pos hinvalid]; rfl
  rw [if_neg hinvalid, if_neg hinvalid]
  by_cases hix : fpClass x = .inf
  · rw [if_pos hix, if_pos hix, infinityWord_eq]; rfl
  rw [if_neg hix, if_neg hix]
  by_cases hiy : fpClass y = .inf
  · rw [if_pos hiy, if_pos (.inl hiy), zeroWord_eq]; rfl
  rw [if_neg hiy]
  by_cases hzx : fpClass x = .zero
  · have hzy : fpClass y ≠ .zero := fun h => hinvalid (.inl ⟨hzx, h⟩)
    have hquot : fpValue x / fpValue y = 0 := by rw [fpValue_of_zero hzx, zero_div]
    have hd := delivers_zero (fpsr := fpsr) (rm := rmBits fpsr) (zeroWord (fpSign x ^^ fpSign y)) hquot
    rw [if_neg hzy, if_pos (.inr hzx)]
    rw [zeroWord_eq] at hd ⊢
    exact hd
  rw [if_neg (not_or.mpr ⟨hiy, hzx⟩)]
  split_ifs with hzy
  · rw [infinityWord_eq]; rfl
  · rw [fpsrMode_eq]
    exact delivers_deliver fpsr (rmBits fpsr) _ _

end Tables

/-- The screening is that of the pages (R334), the arithmetic told of operands without NaN or UIPL. -/
theorem screened_getD {fpsr x y : Word} {arithmetic : FpResult → Prop} {r : FpResult}
    (h : Ordinary (flushedOperand fpsr x) → Ordinary (flushedOperand fpsr y) → arithmetic r) :
    Screened fpsr x y arithmetic ((screenOperands fpsr x y).getD r) := by
  unfold Screened
  by_cases hs : fpClass x = .snan ∨ fpClass y = .snan
  · rw [if_pos hs, screenOperands_of_snan hs]
    have hnan : nan2 x y = quiet (if fpClass y = .snan then y else x) := by
      split_ifs with hy
      · exact nan2_of_snan_right hy
      · exact nan2_of_snan_left (hs.resolve_right hy) hy
    rw [hnan]
    rfl
  rw [if_neg hs]
  obtain ⟨hsx, hsy⟩ := not_or.mp hs
  by_cases hq : fpClass x = .qnan ∨ fpClass y = .qnan
  · rw [if_pos hq, screenOperands_of_qnan hs hq]
    have hnan : nan2 x y = if fpClass y = .qnan then y else x := by
      split_ifs with hy
      · exact nan2_of_qnan_right hsx hy
      · exact nan2_of_qnan_left (hq.resolve_right hy) ((fpIsNan_eq_false_iff y).mpr ⟨hy, hsy⟩)
    rw [hnan]
    rfl
  rw [if_neg hq]
  obtain ⟨hqx, hqy⟩ := not_or.mp hq
  have hx := (fpIsNan_eq_false_iff x).mpr ⟨hqx, hsx⟩
  have hy := (fpIsNan_eq_false_iff y).mpr ⟨hqy, hsy⟩
  have hunsupported : (fpUnsupported fpsr x || fpUnsupported fpsr y) = true ↔
      (fpClass x = .denormal ∨ fpClass y = .denormal) ∧ fpsr.getLsbD 8 = false := by
    change (fpClass x == .denormal && !fpsr.getLsbD 8 || fpClass y == .denormal && !fpsr.getLsbD 8) = true ↔ _
    rw [← Bool.and_or_distrib_right, Bool.and_eq_true, Bool.or_eq_true, beq_iff_eq, beq_iff_eq, Bool.not_eq_true']
  rw [screenOperands_of_not_nan hx hy, if_congr hunsupported rfl rfl]
  split_ifs with hd
  · rfl
  · rw [← hunsupported, Bool.or_eq_true, not_or, Bool.not_eq_true, Bool.not_eq_true] at hd
    exact h (ordinary_flushedOperand hx hd.1) (ordinary_flushedOperand hy hd.2)

end Sys2Proof.Machine

namespace Sys2Proof.Proofs
open Sys2Proof.Machine

/-- Settles O51. -/
theorem arithmeticResults : Obligations.ArithmeticResults := by
  intro d a b s x y screened
  obtain ⟨hadd, hsub, hmul, hdiv, _⟩ := fpuFrame d a b s
  have hscreen {arithmetic : FpResult → Prop} {r : FpResult} (h : Ordinary x → Ordinary y → arithmetic r) :
      screened arithmetic ((screenOperands s.fpsr (s.reg a) (s.reg b)).getD r) := screened_getD h
  simp only [addCore_eq, mulCore_eq, divCore_eq, fpEff_eq_flushedOperand] at hadd hsub hmul hdiv
  refine ⟨⟨_, hscreen fun hx hy => sumEnds_addArith hx hy, hadd⟩,
    ⟨_, hscreen fun hx hy => sumEnds_addArith hx hy.flipSign, hsub⟩,
    ⟨_, hscreen fun _ _ => ?_, hmul⟩, ⟨_, hscreen fun _ _ => quotientEnds_divArith, hdiv⟩⟩
  rw [fpsrMode_eq]
  exact productEnds_mulArith _

end Sys2Proof.Proofs
end

section
/-! PROOFS of the conversions (47_float_instructions.md R367 to R370). -/

namespace Sys2Proof.Machine

-- ## From an integer (R367, R368)

theorem round24_exp_le (q : ℚ) (mode : RoundMode) : (round24 q mode).exp ≤ scale q + 1 := by
  rw [round24_eq]
  split_ifs
  · exact le_refl _
  · exact Int.le.intro 1 rfl

theorem floatOfInteger_of_ne_zero {fpsr : Word} {n : Int} (hn : n ≠ 0) :
    floatOfInteger fpsr n = ⟨some (round24 n (fpsrMode fpsr)).word, { ixct := (round24 n (fpsrMode fpsr)).inexact }⟩ := by
  rw [floatOfInteger, if_neg hn, mkRat_one]

section FromInteger
variable {n : Int} (hn : n ≠ 0)
include hn

theorem cast_ne_zero : (n : ℚ) ≠ 0 := Int.cast_ne_zero.mpr hn

theorem scale_intCast_nonneg : 0 ≤ scale n := by
  refine scale_ge ?_
  rw [zpow_zero, ← Int.cast_abs]
  exact_mod_cast Int.one_le_abs hn

theorem scale_intCast_lt (h : n.natAbs < 2 ^ 32) : scale n < 32 := by
  refine scale_lt (cast_ne_zero hn) ?_
  rw [← Int.cast_abs, Int.abs_eq_natAbs]
  exact_mod_cast h

/-- An integer of 32 bits gives the word that RM rounds it to. -/
theorem floatOfInteger_rounds (fpsr : Word) (h : n.natAbs < 2 ^ 32) :
    ∃ w, RoundsTo (rmBits fpsr) n w ∧ floatOfInteger fpsr n = ⟨some w, { ixct := decide (fpValue w ≠ n) }⟩ := by
  have hq := cast_ne_zero hn
  have hlo := scale_intCast_nonneg hn
  have hscale : -126 ≤ scale (n : ℚ) := by omega
  have hexp : (round24 n (fpsrMode fpsr)).exp ≤ 127 := by
    have h1 := round24_exp_le n (fpsrMode fpsr)
    have h2 := scale_intCast_lt hn h
    omega
  refine ⟨(round24 n (fpsrMode fpsr)).word, ?_, ?_⟩
  · rw [fpsrMode_eq] at hexp ⊢
    exact roundsTo_round24 hq hscale (rmBits fpsr) hexp
  · rw [floatOfInteger_of_ne_zero hn, round24_inexact_eq hq hscale hexp]

/-- Up to 2^24 the significand is an integer before rounding. -/
theorem significand_intCast (h : n.natAbs ≤ 2 ^ 24) : ∃ k : Nat, significand (n : ℚ) = k := by
  have habs : |(n : ℚ)| = n.natAbs := by rw [← Int.cast_abs, Int.abs_eq_natAbs, Int.cast_natCast]
  have hle : |(n : ℚ)| ≤ 2 ^ (24 : Int) := by
    rw [habs]
    exact_mod_cast h
  obtain ⟨hlo, _⟩ := scale_spec (cast_ne_zero hn)
  have hscale : scale (n : ℚ) ≤ 24 := zpow_two_le_zpow_two.mp (hlo.trans hle)
  rcases hscale.lt_or_eq with hlt | heq
  · obtain ⟨j, hj⟩ := Int.le.dest (show scale (n : ℚ) ≤ 23 by omega)
    refine ⟨n.natAbs * 2 ^ j, ?_⟩
    rw [significand, habs, show 23 - scale (n : ℚ) = (j : Int) by omega, zpow_natCast]
    push_cast
    ring
  · rw [heq] at hlo
    refine ⟨2 ^ 23, ?_⟩
    rw [significand, heq, le_antisymm hle hlo]
    norm_num

end FromInteger

/-- An integer of at most 24 bits is delivered exactly. -/
theorem floatOfInteger_exact (fpsr : Word) {n : Int} (h : n.natAbs ≤ 2 ^ 24) :
    ∃ w, floatOfInteger fpsr n = exactly w ∧ fpValue w = n := by
  by_cases hn : n = 0
  · subst hn
    exact ⟨0#32, if_pos rfl, fpValue_of_zero (by decide)⟩
  · obtain ⟨w, hw, heq⟩ := floatOfInteger_rounds hn fpsr (by omega)
    obtain ⟨k, hk⟩ := significand_intCast hn h
    have hround : (round24 n (fpsrMode fpsr)).inexact = false := by
      rw [← Bool.not_eq_true, round24_inexact_iff, not_not, round24_value, roundedSignificand, hk, roundInteger_natCast,
        ← hk, significand_mul_ulp, signFactor_mul_abs]
    have hixct : decide (fpValue w ≠ n) = false := by
      have hraised := congrArg (fun r => r.raised.ixct) (heq.symm.trans (floatOfInteger_of_ne_zero hn))
      exact hraised.trans hround
    rw [hixct] at heq
    exact ⟨w, heq, not_not.mp (of_decide_eq_false hixct)⟩

-- ## To an integer (R369, R370)

theorem truncate_of_neg {q : ℚ} (h : q < 0) : truncate q = -⌊-q⌋ := if_pos h

theorem truncate_of_nonneg {q : ℚ} (h : ¬ q < 0) : truncate q = ⌊q⌋ := if_neg h

/-- Toward 0: no further from 0 than the number, by less than 1, and on its side. -/
theorem truncate_spec (q : ℚ) :
    |(truncate q : ℚ)| ≤ |q| ∧ |q| < |(truncate q : ℚ)| + 1 ∧ 0 ≤ (truncate q : ℚ) * q := by
  by_cases h : q < 0
  · have hfloor : (0 : ℚ) ≤ ⌊-q⌋ := Int.cast_nonneg (Int.floor_nonneg.mpr (by linarith))
    rw [truncate_of_neg h, Int.cast_neg, abs_neg, abs_of_nonneg hfloor, abs_of_neg h, neg_mul_comm]
    exact ⟨Int.floor_le _, Int.lt_floor_add_one _, mul_nonneg hfloor (by linarith)⟩
  · have hq := not_lt.mp h
    have hfloor : (0 : ℚ) ≤ ⌊q⌋ := Int.cast_nonneg (Int.floor_nonneg.mpr hq)
    rw [truncate_of_nonneg h, abs_of_nonneg hfloor, abs_of_nonneg hq]
    exact ⟨Int.floor_le _, Int.lt_floor_add_one _, mul_nonneg hfloor hq⟩

/-- The range, tested after truncation, told of the number. -/
theorem truncate_out_of_range_iff {limit : Int} (hlimit : 0 < limit) (q : ℚ) :
    (limit - 1 < truncate q ∨ truncate q < -limit) ↔ (q ≤ -(limit : ℚ) - 1 ∨ (limit : ℚ) ≤ q) := by
  have hpos : (0 : ℚ) < limit := Int.cast_pos.mpr hlimit
  by_cases h : q < 0
  · rw [truncate_of_neg h]
    have hfloor : 0 ≤ ⌊-q⌋ := Int.floor_nonneg.mpr (by linarith)
    have hle : limit + 1 ≤ ⌊-q⌋ ↔ ((limit + 1 : Int) : ℚ) ≤ -q := Int.le_floor
    rw [Int.cast_add, Int.cast_one] at hle
    constructor
    · intro hout
      exact .inl (by linarith [hle.mp (by omega)])
    · rintro (hout | hout)
      · have := hle.mpr (by linarith)
        omega
      · linarith
  · rw [truncate_of_nonneg h]
    have hfloor : 0 ≤ ⌊q⌋ := Int.floor_nonneg.mpr (not_lt.mp h)
    have hle : limit ≤ ⌊q⌋ ↔ (limit : ℚ) ≤ q := Int.le_floor
    constructor
    · intro hout
      exact .inr (hle.mp (by omega))
    · rintro (hout | hout)
      · linarith
      · have := hle.mpr hout
        omega

theorem toInt_ofInt_word {v : Int} (hlo : -2 ^ 31 ≤ v) (hhi : v < 2 ^ 31) : (BitVec.ofInt 32 v).toInt = v := by
  rw [BitVec.toInt_ofInt, Int.bmod_def]
  split <;> omega

section ToInteger
variable {fpsr w : Word} {limit : Int}

/-- The end of the range that the sign selects (R369). -/
def saturatedWord (w : Word) (limit : Int) : Word := BitVec.ofInt 32 (if fpSign w then -limit else limit - 1)

theorem toInt_saturatedWord (w : Word) (hlo : 0 < limit) (hhi : limit ≤ 2 ^ 31) :
    (saturatedWord w limit).toInt = if w.getLsbD 31 then -limit else limit - 1 := by
  rw [saturatedWord, toInt_ofInt_word]
  · rfl
  · split_ifs <;> omega
  · split_ifs <;> omega

theorem integerOfFloat_of_normal (h : fpClass w = .normal) :
    integerOfFloat fpsr w limit =
      if limit - 1 < truncate (fpValue w) ∨ truncate (fpValue w) < -limit then invalid (saturatedWord w limit)
      else ⟨some (BitVec.ofInt 32 (truncate (fpValue w))),
        { ixct := decide ((truncate (fpValue w) : ℚ) ≠ fpValue w) }⟩ := by
  rw [integerOfFloat, h, ← mkRat_one]
  rfl

theorem integerOfFloat_of_inf_or_nan (h : fpClass w = .inf ∨ fpIsNan w = true) :
    integerOfFloat fpsr w limit = invalid (saturatedWord w limit) := by
  rw [fpIsNan_eq_true_iff] at h
  rw [integerOfFloat]
  rcases h with h | h | h <;> rw [h] <;> rfl

theorem integerOfFloat_of_zero (h : fpClass w = .zero) : integerOfFloat fpsr w limit = exactly 0x00000000#32 := by
  rw [integerOfFloat, h]

theorem integerOfFloat_of_denormal (h : fpClass w = .denormal) :
    integerOfFloat fpsr w limit = if fpsr.getLsbD 8 then exactly 0x00000000#32 else unimplemented := by
  rw [integerOfFloat, h]
  rfl

end ToInteger

/-- FTOI and FTOS end as their procedure says, whatever the range. -/
structure ConvertsTo (i : Instr) (s : State) (d r : Reg) (limit : Int) : Prop where
  exec : exec i s = completeFp d (integerOfFloat s.fpsr (s.reg r) limit) s
  positive : 0 < limit
  bounded : limit ≤ 2 ^ 31

end Sys2Proof.Machine

namespace Sys2Proof.Proofs
open Sys2Proof.Machine

/-- Settles O52. -/
theorem integerToFloat : Obligations.IntegerToFloat := by
  intro d r s signed unsigned
  have hlt := (s.reg r).isLt
  have hsigned := BitVec.toInt_eq_toNat_cond (x := s.reg r)
  have hitof : exec (.itof d r) s = completeFp d (floatOfInteger s.fpsr (s.reg r).toInt) s := rfl
  have hutof : exec (.utof d r) s = completeFp d (floatOfInteger s.fpsr (s.reg r).toNat) s := rfl
  refine ⟨fun h => ?zero, fun h => ?rounded, fun h => ?exactSigned, fun h => ?exactUnsigned⟩
  case zero =>
    rw [h] at hitof hutof
    exact ⟨fpuCompletes_of (n := s.draws) hitof (forced_noExceptions _),
      fpuCompletes_of (n := s.draws) hutof (forced_noExceptions _)⟩
  case rounded =>
    have hne : (s.reg r).toNat ≠ 0 := fun h0 => h (BitVec.eq_of_toNat_eq h0)
    obtain ⟨v, hv, hveq⟩ := floatOfInteger_rounds (n := (s.reg r).toInt) (by split at hsigned <;> omega) s.fpsr
      (by split at hsigned <;> omega)
    obtain ⟨w, hw, hweq⟩ := floatOfInteger_rounds (n := (s.reg r).toNat) (by omega) s.fpsr (by omega)
    rw [hveq] at hitof
    rw [hweq] at hutof
    refine ⟨⟨v, hv, fpuEnds_of (n := s.draws) hitof wordOrForced_of_some⟩, ⟨w, ?_, ?_⟩⟩
    · rwa [Int.cast_natCast] at hw
    · rw [Int.cast_natCast] at hutof
      exact fpuEnds_of (n := s.draws) hutof wordOrForced_of_some
  case exactSigned =>
    obtain ⟨v, hv, hval⟩ := floatOfInteger_exact s.fpsr h
    rw [hv] at hitof
    exact ⟨v, fpuCompletes_of (n := s.draws) hitof (forced_noExceptions _), hval⟩
  case exactUnsigned =>
    obtain ⟨v, hv, hval⟩ := floatOfInteger_exact s.fpsr (n := (s.reg r).toNat) (by omega)
    rw [hv] at hutof
    exact ⟨v, fpuCompletes_of (n := s.draws) hutof (forced_noExceptions _), by rwa [Int.cast_natCast] at hval⟩

/-- Settles O53, class by class. -/
theorem floatToInteger : Obligations.FloatToInteger := by
  intro d r s x p hp
  obtain ⟨hexec, hpos, hmax⟩ : ConvertsTo p.1 s d r p.2 := by
    simp only [List.mem_cons, List.not_mem_nil, or_false] at hp
    rcases hp with rfl | rfl
    exacts [⟨rfl, by norm_num, by norm_num⟩, ⟨rfl, by norm_num, by norm_num⟩]
  refine ⟨fun hc hlo hhi => ?inRange, fun hout => ?outOfRange, fun hc => ?zero, fun hc hdn => ?flushed,
    fun hc hdn hpc => ?denormal⟩
  case inRange =>
    have hin : ¬ (p.2 - 1 < truncate (fpValue x) ∨ truncate (fpValue x) < -p.2) := by
      rw [truncate_out_of_range_iff hpos, not_or, not_le, not_le]
      exact ⟨hlo, hhi⟩
    obtain ⟨htmax, htmin⟩ := not_or.mp hin
    have htoInt : (BitVec.ofInt 32 (truncate (fpValue x))).toInt = truncate (fpValue x) :=
      toInt_ofInt_word (by omega) (by omega)
    rw [integerOfFloat_of_normal hc, if_neg hin] at hexec
    obtain ⟨hle, hlt, hsign⟩ := truncate_spec (fpValue x)
    refine ⟨_, _, fpuEnds_of (n := s.draws) hexec wordOrForced_of_some, ?_⟩
    rw [htoInt]
    exact ⟨hle, hlt, hsign, decide_eq_true_iff⟩
  case outOfRange =>
    have hinvalid : integerOfFloat s.fpsr x p.2 = invalid (saturatedWord x p.2) := by
      rcases hout with hc | hc | ⟨hc, hrange⟩
      · exact integerOfFloat_of_inf_or_nan (.inl hc)
      · exact integerOfFloat_of_inf_or_nan (.inr hc)
      · rw [integerOfFloat_of_normal hc, if_pos ((truncate_out_of_range_iff hpos _).mpr hrange)]
    rw [hinvalid] at hexec
    exact ⟨_, fpuEnds_of (n := s.draws) hexec wordOrForced_of_some, toInt_saturatedWord x hpos hmax⟩
  case zero =>
    rw [integerOfFloat_of_zero hc] at hexec
    exact fpuCompletes_of (n := s.draws) hexec (forced_noExceptions _)
  case flushed =>
    rw [integerOfFloat_of_denormal hc, if_pos hdn] at hexec
    exact fpuCompletes_of (n := s.draws) hexec (forced_noExceptions _)
  case denormal =>
    rw [integerOfFloat_of_denormal hc, hdn, if_neg Bool.false_ne_true] at hexec
    exact takesFpe_of (n := s.draws) hpc hexec (.inl rfl)

end Sys2Proof.Proofs
end

section
/-! PROOFS of the multiplications with addition (47_float_instructions.md R365, R366). -/

namespace Sys2Proof.Machine

-- ## Words that the arithmetic leaves

/-- The exact arithmetic delivers a zero, a normalized word or an infinity. -/
theorem ordinary_of_deliver {fpsr v : Word} {q : ℚ} {mode : RoundMode} {zsign : Bool}
    (h : (deliver fpsr q mode zsign).val = some v) : Ordinary v := by
  have hzero (neg : Bool) : Ordinary (signedZero neg) := by cases neg <;> exact ⟨by decide, by decide⟩
  have hovf (neg : Bool) (m : RoundMode) : Ordinary (ovfValue neg m) := by
    cases neg <;> cases m <;> exact ⟨by decide, by decide⟩
  have hval {w : Word} {x : FpExceptions} (he : deliver fpsr q mode zsign = ⟨some w, x⟩) : v = w :=
    Option.some.inj (h.symm.trans (congrArg FpResult.val he))
  have hnone {x : FpExceptions} {P : Prop} (he : deliver fpsr q mode zsign = ⟨none, x⟩) : P :=
    nomatch h.symm.trans (congrArg FpResult.val he)
  rcases deliver_cases fpsr q mode zsign with ⟨_, e⟩ | ⟨_, _, _, e⟩ | ⟨_, _, _, _, e⟩ | ⟨_, _, _, _, e⟩ |
    ⟨_, _, _, e⟩ | ⟨_, _, _, e⟩ | ⟨hnormal, hexp, e⟩
  · exact hval e ▸ hzero _
  · exact hnone e
  · exact hval e ▸ hzero _
  · exact hnone e
  · exact hnone e
  · exact hval e ▸ hovf _ _
  · rw [twoPow_eq] at hnormal
    have hclass := fpClass_round24 (scale_ge hnormal) hexp
    rw [hval e]
    exact ⟨by rw [fpIsNan, hclass]; rfl, by rw [hclass]; decide⟩

/-- A product is a quiet NaN or a word the arithmetic works on. -/
theorem qnan_or_ordinary_of_mulArith {fpsr a b v : Word} {mode : RoundMode}
    (h : (mulArith fpsr a b mode).val = some v) : fpClass v = .qnan ∨ Ordinary v := by
  unfold mulArith at h
  dsimp only at h
  split_ifs at h
  · exact .inl (Option.some.inj h ▸ fpClass_invalidNan)
  · refine .inr (Option.some.inj h ▸ ?_)
    cases fpSign a ^^ fpSign b <;> exact ⟨by decide, by decide⟩
  · refine .inr (Option.some.inj h ▸ ?_)
    cases fpSign a ^^ fpSign b <;> exact ⟨by decide, by decide⟩
  · exact .inr (ordinary_of_deliver h)

theorem qnan_or_ordinary_of_mulCore {fpsr a b p : Word} {x : FpExceptions} {mode : RoundMode}
    (h : mulCore fpsr a b mode = ⟨some p, x⟩) : fpClass p = .qnan ∨ Ordinary p := by
  by_cases hnan : fpIsNan a = true ∨ fpIsNan b = true
  · exact .inl (fpClass_product_nan hnan h)
  · obtain ⟨ha, hb⟩ := not_or.mp hnan
    have hval := congrArg FpResult.val h
    rw [mulCore_eq, screenOperands_of_not_nan (Bool.eq_false_of_not_eq_true ha) (Bool.eq_false_of_not_eq_true hb)] at hval
    split_ifs at hval
    · exact nomatch hval
    · exact qnan_or_ordinary_of_mulArith hval

/-- What a product is not. -/
theorem product_class {p : Word} (h : fpClass p = .qnan ∨ Ordinary p) : fpClass p ≠ .snan ∧ fpClass p ≠ .denormal := by
  rcases h with h | ⟨hnan, hd⟩
  · rw [h]
    decide
  · exact ⟨((fpIsNan_eq_false_iff p).mp hnan).2, hd⟩

-- ## Both steps (R365)

theorem addendEnds_of_forced {fpsr d : Word} {subtract : Bool} {r1 : FpResult} (hf : r1.raised.forced fpsr = true) :
    AddendEnds fpsr d subtract r1 ⟨none, r1.raised.union (addendExceptions fpsr d)⟩ := by
  have hunion : r1.raised.union (addendExceptions fpsr d) = { r1.raised with
      ivld := r1.raised.ivld || decide (fpClass d = .snan)
      uipl := r1.raised.uipl || decide (fpClass d = .denormal ∧ fpsr.getLsbD 8 = false) } := by
    by_cases hsnan : fpClass d = .snan
    · simp [FpExceptions.union, addendExceptions, hsnan]
    · by_cases hd : fpUnsupported fpsr d = true
      · have htiny : fpClass d = .denormal ∧ fpsr.getLsbD 8 = false := by
          simpa only [fpUnsupported, fpsrDn, Bool.and_eq_true, beq_iff_eq, Bool.not_eq_true'] using hd
        simp only [FpExceptions.union, addendExceptions, if_neg hsnan, if_pos hd, decide_eq_false hsnan,
          decide_eq_true htiny, Bool.or_false]
      · have htiny : ¬ (fpClass d = .denormal ∧ fpsr.getLsbD 8 = false) := by
          simpa only [fpUnsupported, fpsrDn, Bool.and_eq_true, beq_iff_eq, Bool.not_eq_true'] using hd
        simp only [FpExceptions.union, addendExceptions, if_neg hsnan, if_neg hd, decide_eq_false hsnan,
          decide_eq_false htiny, noExceptions, Bool.or_false]
  unfold AddendEnds
  dsimp only
  rw [if_pos hf, hunion]

/-- Step 2 on a product ends by the order of the classes of the pages. -/
theorem addendEnds_maddStep2 {fpsr d p : Word} {x : FpExceptions} (subtract : Bool) (hx : x.forced fpsr = false)
    (hp : fpClass p = .qnan ∨ Ordinary p) :
    AddendEnds fpsr d subtract ⟨some p, x⟩ (maddStep2 fpsr d p x subtract) := by
  unfold AddendEnds maddStep2
  dsimp only
  rw [if_neg (by rw [hx]; decide)]
  refine ⟨p, rfl, ?_⟩
  by_cases hsnan : fpClass d = .snan
  · rw [if_pos hsnan, if_pos hsnan]
    simp [FpExceptions.union, quiet]
  rw [if_neg hsnan, if_neg hsnan]
  by_cases hqnan : fpClass d = .qnan
  · rw [if_pos hqnan, if_pos hqnan]
  rw [if_neg hqnan, if_neg hqnan]
  by_cases hpnan : fpClass p = .qnan
  · rw [if_pos hpnan, if_pos hpnan]
  rw [if_neg hpnan, if_neg hpnan]
  have hunsupported : fpUnsupported fpsr d = true ↔ fpClass d = .denormal ∧ fpsr.getLsbD 8 = false := by
    simp only [fpUnsupported, fpsrDn, Bool.and_eq_true, beq_iff_eq, Bool.not_eq_true']
  by_cases hd : fpUnsupported fpsr d = true
  · rw [if_pos (hunsupported.mp hd), if_pos hd]
    simp [FpExceptions.union]
  rw [if_neg (mt hunsupported.mpr hd), if_neg hd, fpEff_eq_flushedOperand]
  have hdord : Ordinary (flushedOperand fpsr d) :=
    ordinary_flushedOperand ((fpIsNan_eq_false_iff d).mpr ⟨hqnan, hsnan⟩) (Bool.eq_false_of_not_eq_true hd)
  have hfinite : (fpClass (flushedOperand fpsr d) = .normal ∨ fpClass (flushedOperand fpsr d) = .zero) ↔
      fpClass (flushedOperand fpsr d) ≠ .inf := by
    rcases hdord.cases with h | h | h <;> rw [h] <;> decide
  have hpord : Ordinary (if subtract then flipSign p else p) := by
    split_ifs
    · exact (hp.resolve_left hpnan).flipSign
    · exact hp.resolve_left hpnan
  by_cases hovf : x.ovf = true ∧ fpClass (flushedOperand fpsr d) ≠ .inf
  · rw [if_pos hovf, if_pos ⟨hovf.1, hfinite.mpr hovf.2⟩]
    rfl
  · have hmodel : ¬ (x.ovf = true ∧
        (fpClass (flushedOperand fpsr d) = .normal ∨ fpClass (flushedOperand fpsr d) = .zero)) :=
      fun h => hovf ⟨h.1, hfinite.mp h.2⟩
    rw [if_neg hovf, if_neg hmodel]
    exact ⟨_, sumEnds_addArith hdord hpord, rfl⟩

theorem addendEnds_maddCore (fpsr d a b : Word) (subtract : Bool) :
    AddendEnds fpsr d subtract (mulCore fpsr a b .towardZero) (maddCore fpsr d a b subtract) := by
  rcases mulCore_forced_or_word fpsr a b .towardZero with hf | ⟨p, x, hp, hx⟩
  · rw [maddCore_of_forced subtract hf]
    exact addendEnds_of_forced hf
  · rw [maddCore_of_word subtract hp hx, hp]
    exact addendEnds_maddStep2 subtract hx (qnan_or_ordinary_of_mulCore hp)

-- ## An exact product is the same in every mode (R325)

theorem round24_eq_of_exact {q : ℚ} {mode : RoundMode} (h : (round24 q mode).inexact = false) (mode' : RoundMode) :
    round24 q mode' = round24 q mode := by
  have hsig : significand q = roundedSignificand q mode := by
    rw [round24_eq] at h
    split_ifs at h
    · exact (not_not.mp (of_decide_eq_false h)).symm
    · exact (not_not.mp (of_decide_eq_false h)).symm
  have hsame : roundedSignificand q mode' = roundedSignificand q mode := by
    conv_lhs => rw [roundedSignificand, hsig]
    exact roundInteger_natCast _ _ _
  rw [round24_eq, round24_eq, hsame]

theorem deliver_eq_of_exact {fpsr p : Word} {q : ℚ} {mode : RoundMode} {zsign : Bool}
    (h : deliver fpsr q mode zsign = exactly p) (mode' : RoundMode) : deliver fpsr q mode' zsign = exactly p := by
  by_cases hq : q = 0
  · rwa [deliver_of_zero hq] at h ⊢
  rcases lt_or_ge |q| ((2 : ℚ) ^ (-126 : Int)) with htiny | hnormal
  · rwa [deliver_of_tiny hq htiny] at h ⊢
  · rw [deliver_of_normal hq hnormal] at h
    have hraised := congrArg FpResult.raised h
    by_cases hexp : 127 < (round24 q mode).exp
    · rw [if_pos hexp] at hraised
      split_ifs at hraised
      · exact nomatch (congrArg FpExceptions.ovf hraised : true = false)
      · exact nomatch (congrArg FpExceptions.ovf hraised : true = false)
    · rw [if_neg hexp] at hraised h
      rw [deliver_of_normal hq hnormal, round24_eq_of_exact (congrArg FpExceptions.ixct hraised) mode', if_neg hexp, h]

theorem mulArith_eq_of_exact {fpsr a b p : Word} {mode : RoundMode} (h : mulArith fpsr a b mode = exactly p)
    (mode' : RoundMode) : mulArith fpsr a b mode' = exactly p := by
  unfold mulArith at h ⊢
  dsimp only at h ⊢
  split_ifs at h ⊢
  · exact h
  · exact h
  · exact h
  · exact deliver_eq_of_exact h mode'

theorem mulCore_eq_of_exact {fpsr a b p : Word} {mode : RoundMode} (h : mulCore fpsr a b mode = exactly p)
    (mode' : RoundMode) : mulCore fpsr a b mode' = exactly p := by
  rw [mulCore_eq] at h ⊢
  rcases hs : screenOperands fpsr a b with _ | r
  · rw [hs, Option.getD_none] at h
    rw [Option.getD_none]
    exact mulArith_eq_of_exact h mode'
  · rw [hs, Option.getD_some] at h
    rw [Option.getD_some]
    exact h

-- ## Step 2 as a sum (R361)

theorem addArith_comm {fpsr a b : Word} (mode : RoundMode) : addArith fpsr a b mode = addArith fpsr b a mode := by
  unfold addArith
  dsimp only
  rw [add_comm (fpValue b)]
  by_cases hia : fpClass a = .inf <;> by_cases hib : fpClass b = .inf
  · by_cases hs : fpSign a = fpSign b
    · have hab : a = b := by rw [eq_signedInf hia, eq_signedInf hib, hs]
      rw [hab]
    · simp [hia, hib, hs, Ne.symm hs]
  · simp [hia, hib]
  · simp [hia, hib]
  · by_cases hza : fpClass a = .zero <;> by_cases hzb : fpClass b = .zero
    · by_cases hs : fpSign a = fpSign b
      · have hab : a = b := by rw [eq_signedZero hza, eq_signedZero hzb, hs]
        rw [hab]
      · simp [hza, hzb, hs, Ne.symm hs]
    · simp [hia, hib, hzb]
    · simp [hia, hib, hza]
    · simp [hia, hib, hza]

section Sum
variable {fpsr d p : Word} (hp : fpClass p = .qnan ∨ Ordinary p)
include hp

/-- Step 2 after a product without exception is the screening of Rdest and the product, then their sum. -/
theorem maddStep2_exact (hd : fpClass d ≠ .qnan ∨ fpClass p ≠ .qnan) (subtract : Bool) :
    maddStep2 fpsr d p noExceptions subtract = (screenOperands fpsr d p).getD
      (addArith fpsr (fpEff fpsr d) (if subtract then flipSign p else p) (fpsrMode fpsr)) := by
  obtain ⟨hps, hpd⟩ := product_class hp
  by_cases hsnan : fpClass d = .snan
  · rw [maddStep2_of_snan hsnan, screenOperands_of_snan (.inl hsnan), nan2_of_snan_left hsnan hps, noExceptions_union]
    rfl
  have hnosnan : ¬ (fpClass d = .snan ∨ fpClass p = .snan) := not_or.mpr ⟨hsnan, hps⟩
  by_cases hqnan : fpClass d = .qnan
  · have hpnan : fpIsNan p = false := (fpIsNan_eq_false_iff p).mpr ⟨hd.resolve_left (not_not.mpr hqnan), hps⟩
    rw [maddStep2_of_qnan hqnan, screenOperands_of_qnan hnosnan (.inl hqnan), nan2_of_qnan_left hqnan hpnan]
    rfl
  have hdnan : fpIsNan d = false := (fpIsNan_eq_false_iff d).mpr ⟨hqnan, hsnan⟩
  by_cases hpnan : fpClass p = .qnan
  · rw [maddStep2_of_product_nan hdnan hpnan, screenOperands_of_qnan hnosnan (.inr hpnan),
      nan2_of_qnan_right hsnan hpnan]
    rfl
  have hpunsupported : fpUnsupported fpsr p = false := by simp [fpUnsupported, hpd]
  rw [screenOperands_of_not_nan hdnan ((fpIsNan_eq_false_iff p).mpr ⟨hpnan, hps⟩), hpunsupported, Bool.or_false]
  unfold maddStep2
  dsimp only
  rw [if_neg hsnan, if_neg hqnan, if_neg hpnan]
  by_cases hu : fpUnsupported fpsr d = true
  · rw [if_pos hu, if_pos hu]
    rfl
  · have hovf : ¬ (noExceptions.ovf = true ∧ (fpClass (fpEff fpsr d) = .normal ∨ fpClass (fpEff fpsr d) = .zero)) :=
      fun h => nomatch h.1
    rw [if_neg hu, if_neg hu, if_neg hovf, noExceptions_union, Option.getD_none]

/-- The screening does not depend on the order of Rdest and the product. -/
theorem screenOperands_comm (hd : fpClass d ≠ .qnan ∨ fpClass p ≠ .qnan) :
    screenOperands fpsr p d = screenOperands fpsr d p := by
  obtain ⟨hps, hpd⟩ := product_class hp
  by_cases hsnan : fpClass d = .snan
  · rw [screenOperands_of_snan (.inr hsnan), screenOperands_of_snan (.inl hsnan), nan2_of_snan_right hsnan,
      nan2_of_snan_left hsnan hps]
  by_cases hqnan : fpClass d = .qnan
  · have hpnan : fpIsNan p = false := (fpIsNan_eq_false_iff p).mpr ⟨hd.resolve_left (not_not.mpr hqnan), hps⟩
    rw [screenOperands_of_qnan (not_or.mpr ⟨hps, hsnan⟩) (.inr hqnan),
      screenOperands_of_qnan (not_or.mpr ⟨hsnan, hps⟩) (.inl hqnan), nan2_of_qnan_right hps hqnan,
      nan2_of_qnan_left hqnan hpnan]
  have hdnan : fpIsNan d = false := (fpIsNan_eq_false_iff d).mpr ⟨hqnan, hsnan⟩
  by_cases hpnan : fpClass p = .qnan
  · rw [screenOperands_of_qnan (not_or.mpr ⟨hps, hsnan⟩) (.inl hpnan),
      screenOperands_of_qnan (not_or.mpr ⟨hsnan, hps⟩) (.inr hpnan), nan2_of_qnan_right hsnan hpnan,
      nan2_of_qnan_left hpnan hdnan]
  have hpnan' : fpIsNan p = false := (fpIsNan_eq_false_iff p).mpr ⟨hpnan, hps⟩
  rw [screenOperands_of_not_nan hdnan hpnan', screenOperands_of_not_nan hpnan' hdnan, Bool.or_comm]

end Sum

end Sys2Proof.Machine

namespace Sys2Proof.Proofs
open Sys2Proof.Machine

/-- Settles O54: step 1 is the product toward 0, step 2 follows the classes of Rdest; an exact product is the same in
every mode, and step 2 on it is a sum. -/
theorem multiplyAddResults : Obligations.MultiplyAddResults := by
  refine ⟨fun d a b s subtract => ?_, fun fpsr d x y p h => ?_⟩
  · obtain ⟨_, _, _, _, hmadd, hmsub, _⟩ := fpuFrame d a b s
    refine ⟨mulCore s.fpsr (s.reg a) (s.reg b) .towardZero,
      maddCore s.fpsr (s.reg d) (s.reg a) (s.reg b) subtract, ?_, addendEnds_maddCore _ _ _ _ _, ?_⟩
    · rw [mulCore_eq, fpEff_eq_flushedOperand, fpEff_eq_flushedOperand]
      exact screened_getD fun _ _ => productEnds_mulArith 1#2
    · cases subtract
      exacts [hmadd, hmsub]
  · have hp := qnan_or_ordinary_of_mulCore h
    have hpeff : fpEff fpsr p = p := fpEff_of_not_denormal (product_class hp).2
    have hstep (subtract : Bool) : maddCore fpsr d x y subtract = maddStep2 fpsr d p noExceptions subtract :=
      maddCore_of_word subtract (mulCore_eq_of_exact h .towardZero) (forced_noExceptions _)
    constructor
    · rw [hstep, addCore_eq, hpeff]
      by_cases hd : fpClass d ≠ .qnan ∨ fpClass p ≠ .qnan
      · rw [maddStep2_exact hp hd, screenOperands_comm hp hd, addArith_comm]
        rfl
      · obtain ⟨hdq, hpq⟩ := not_or.mp hd
        have hdq := not_not.mp hdq
        have hpq := not_not.mp hpq
        rw [maddStep2_of_qnan hdq, screenOperands_of_qnan (by rw [hdq, hpq]; decide) (.inl hpq),
          nan2_of_qnan_right (by rw [hpq]; decide) hdq]
        rfl
    · intro hd
      rw [hstep, maddStep2_exact hp hd, addCore_eq, hpeff]

end Sys2Proof.Proofs
end
